-- ==== Sys2Proof/Word.lean ====
section
/-! DEFINITION. The word types of QRECC: every value of the block is an unsigned integer of a fixed
width (spec/00_scope.md R8, spec/40_gf256_arith.md R108); bit `i` of `v` is `v.getLsbD i`. -/

namespace Sys2Proof

/-- A codeword, an element of GF(256), a message byte: 8 bits (R108). -/
abbrev Byte := BitVec 8

/-- A command word, `A`, `B`, `BADCMD`: 16 bits (R70, R108). -/
abbrev Word16 := BitVec 16

/-- The CRC register and the data of a response: 32 bits (R108). -/
abbrev Word32 := BitVec 32

end Sys2Proof
end

