-- ==== Sys2Proof/Config.lean ====
section
/-! DEFINITION. What the spec leaves OPEN and an implementation fixes (spec/00_scope.md R6,
spec/92_eei_decisions.md D22). Neither has a body, so nothing can be proved of its value; no rule of
the spec depends on either, and no definition of the model reads one (log 8). Every other parameter of
R6 is fixed and stands, so that a later repair could mend it, in Machine/Constants.lean. -/

namespace Sys2Proof

/-- `LAT(c)`: the time from accepting a command word to offering its response. It "may differ per
command and per occasion" (spec/70_reset_and_hazards.md R280), so it takes the word and the occasion. -/
opaque Config.latency : Word16 → Nat → Nat

/-- `T_RST`: how long the `rst` pin must be held (spec/70_reset_and_hazards.md R271). -/
opaque Config.resetPulse : Nat

end Sys2Proof
end

