-- ==== Sys2Proof/Syntax.lean ====
section
/-! DEFINITION. The syntax of QRECC's commands: the 14 rows of spec/opcode_table.json
(spec/30_encoding.md R73), their formats and raw fields (R71), and the four pseudo-commands (R79). -/

namespace Sys2Proof

/-- The 14 commands (R73). An operand is a bit vector of exactly the width its format gives it (R72),
so no term of this type carries an operand its encoding has no room for. -/
inductive Instr where
  /-- `SYS.NOP` (R220). -/
  | sysNop
  /-- `SYS.RESET` (R221). -/
  | sysReset
  /-- `SYS.STAT` (R222). -/
  | sysStat
  /-- `RS.INIT` (R136). -/
  | rsInit
  /-- `RS.PUSH b` (R137). -/
  | rsPush (b : Byte)
  /-- `RS.POP` (R138). -/
  | rsPop
  /-- `BCH.ENC d`, with `d` = `{ecLevelBits[1:0], maskIndex[2:0]}` (R72, R163). -/
  | bchEnc (d : BitVec 5)
  /-- `BCH.RD` (R164). -/
  | bchRd
  /-- `CRC.INIT` (R182). -/
  | crcInit
  /-- `CRC.BYTE b` (R183). -/
  | crcByte (b : Byte)
  /-- `CRC.RD` (R184). -/
  | crcRd
  /-- `ADL.INIT` (R202). -/
  | adlInit
  /-- `ADL.BYTE b` (R203). -/
  | adlByte (b : Byte)
  /-- `ADL.RD` (R204). -/
  | adlRd
  deriving DecidableEq, Repr

/-- The three formats of R71. -/
inductive Format where
  /-- No operand: `imm` must be `0x00`. -/
  | Z
  /-- A byte operand: `imm[7:0]`, any value. -/
  | B
  /-- A five-bit operand: `imm[4:0]`; `imm[7:5]` must be zero. -/
  | F
  deriving DecidableEq, Repr

/-- The units of the block: who owns a command (R71) and its registers (spec/10_state.md R20). -/
inductive CommandUnit where
  | sys | rs | bch | crc | adl
  deriving DecidableEq, Repr

/-- The raw fields of a command word (R71): bits 15:12, 11:8 and 7:0. -/
structure CommandFields where
  unit : BitVec 4
  fn : BitVec 4
  imm : Byte
  deriving DecidableEq, Repr

/-- The unit that performs a command (R71). -/
def Instr.unit : Instr → CommandUnit
  | .sysNop => .sys
  | .sysReset => .sys
  | .sysStat => .sys
  | .rsInit => .rs
  | .rsPush _ => .rs
  | .rsPop => .rs
  | .bchEnc _ => .bch
  | .bchRd => .bch
  | .crcInit => .crc
  | .crcByte _ => .crc
  | .crcRd => .crc
  | .adlInit => .adl
  | .adlByte _ => .adl
  | .adlRd => .adl

/-- The pseudo-commands of R79, as written: operands are lists of bytes and numbers, whose ranges
WellFormed.lean checks. -/
inductive Pseudo where
  /-- `RS.ENC b0, ..., b15`. -/
  | rsEnc (bytes : List Byte)
  /-- `FMT.ENC ecl, mask`. -/
  | fmtEnc (ecl mask : Nat)
  /-- `CRC.MSG b0, ..., b(n-1)`. -/
  | crcMsg (bytes : List Byte)
  /-- `ADL.MSG b0, ..., b(n-1)`. -/
  | adlMsg (bytes : List Byte)
  deriving DecidableEq, Repr

end Sys2Proof
end

