-- ==== Sys2Proof/WellFormed.lean ====
section
/-! DEFINITION. When the raw fields of a command word are those of a command (spec/30_encoding.md R71,
R75), and when a pseudo-command's operands are in range (R79). The checks stand on raw fields because
the operands of `Instr` carry their widths in their types. -/

namespace Sys2Proof

/-- The format of the command a unit and function number name; `none` where there is no such unit or
no such function (R71, R75). -/
def formatOf (unit fn : BitVec 4) : Option Format :=
  match unit.toNat, fn.toNat with
  | 0, 0 => some .Z
  | 0, 1 => some .Z
  | 0, 2 => some .Z
  | 1, 0 => some .Z
  | 1, 1 => some .B
  | 1, 2 => some .Z
  | 2, 0 => some .F
  | 2, 1 => some .Z
  | 3, 0 => some .Z
  | 3, 1 => some .B
  | 3, 2 => some .Z
  | 4, 0 => some .Z
  | 4, 1 => some .B
  | 4, 2 => some .Z
  | _, _ => none

/-- What a format asks of `imm` (R71). -/
def Format.immOk : Format → Byte → Bool
  | .Z, imm => imm == 0
  | .B, _ => true
  | .F, imm => imm.extractLsb' 5 3 == 0

/-- The fields are those of a legal command word (R73, R75). -/
def CommandFields.wellFormed (c : CommandFields) : Bool :=
  match formatOf c.unit c.fn with
  | none => false
  | some format => format.immOk c.imm

/-- The fields of a command (R71, R73). -/
def Instr.fields : Instr → CommandFields
  | .sysNop => ⟨0, 0, 0⟩
  | .sysReset => ⟨0, 1, 0⟩
  | .sysStat => ⟨0, 2, 0⟩
  | .rsInit => ⟨1, 0, 0⟩
  | .rsPush b => ⟨1, 1, b⟩
  | .rsPop => ⟨1, 2, 0⟩
  | .bchEnc d => ⟨2, 0, d.setWidth 8⟩
  | .bchRd => ⟨2, 1, 0⟩
  | .crcInit => ⟨3, 0, 0⟩
  | .crcByte b => ⟨3, 1, b⟩
  | .crcRd => ⟨3, 2, 0⟩
  | .adlInit => ⟨4, 0, 0⟩
  | .adlByte b => ⟨4, 1, b⟩
  | .adlRd => ⟨4, 2, 0⟩

/-- A command is well-formed when its fields are. -/
def Instr.wellFormed (i : Instr) : Bool := i.fields.wellFormed

/-- The operand ranges of R79: `RS.ENC` takes 16 bytes, `FMT.ENC` a level 0 to 3 and a mask 0 to 7. -/
def Pseudo.wellFormed : Pseudo → Bool
  | .rsEnc bytes => bytes.length == 16
  | .fmtEnc ecl mask => decide (ecl ≤ 3) && decide (mask ≤ 7)
  | .crcMsg _ => true
  | .adlMsg _ => true

end Sys2Proof
end

