-- ==== Sys2Proof/Decode.lean ====
section
/-! DEFINITION. Decoding a command word and encoding a command (spec/30_encoding.md R70 to R75).
Decoding is total and is a function of the word alone (R74): a word is one of the 14 commands or it is
illegal, for a reason with a name (R75). -/

namespace Sys2Proof

/-- The raw fields of a word (R71). -/
def fieldsOf (w : Word16) : CommandFields :=
  ⟨w.extractLsb' 12 4, w.extractLsb' 8 4, w.extractLsb' 0 8⟩

/-- The byte operand of format B: `cmd[7:0]` (R72). -/
def operandB (w : Word16) : Byte := w.extractLsb' 0 8

/-- The five-bit operand of format F: `cmd[4:0]` (R72). -/
def operandF (w : Word16) : BitVec 5 := w.extractLsb' 0 5

/-- One row of the opcode map: `w` is the row's command when `w & mask = pattern`, and `build` reads
its operand, if it has one, from the word (R73). -/
structure OpcodeRow where
  mnemonic : String
  pattern : Word16
  mask : Word16
  build : Word16 → Instr

/-- The word belongs to the row (R73). -/
def OpcodeRow.accepts (row : OpcodeRow) (w : Word16) : Bool := w &&& row.mask == row.pattern

/-- The opcode map (R73), row for row. -/
def opcodeTable : List OpcodeRow := [
  ⟨"SYS.NOP",   0x0000, 0xFFFF, fun _ => .sysNop⟩,
  ⟨"SYS.RESET", 0x0100, 0xFFFF, fun _ => .sysReset⟩,
  ⟨"SYS.STAT",  0x0200, 0xFFFF, fun _ => .sysStat⟩,
  ⟨"RS.INIT",   0x1000, 0xFFFF, fun _ => .rsInit⟩,
  ⟨"RS.PUSH",   0x1100, 0xFF00, fun w => .rsPush (operandB w)⟩,
  ⟨"RS.POP",    0x1200, 0xFFFF, fun _ => .rsPop⟩,
  ⟨"BCH.ENC",   0x2000, 0xFFE0, fun w => .bchEnc (operandF w)⟩,
  ⟨"BCH.RD",    0x2100, 0xFFFF, fun _ => .bchRd⟩,
  ⟨"CRC.INIT",  0x3000, 0xFFFF, fun _ => .crcInit⟩,
  ⟨"CRC.BYTE",  0x3100, 0xFF00, fun w => .crcByte (operandB w)⟩,
  ⟨"CRC.RD",    0x3200, 0xFFFF, fun _ => .crcRd⟩,
  ⟨"ADL.INIT",  0x4000, 0xFFFF, fun _ => .adlInit⟩,
  ⟨"ADL.BYTE",  0x4100, 0xFF00, fun w => .adlByte (operandB w)⟩,
  ⟨"ADL.RD",    0x4200, 0xFFFF, fun _ => .adlRd⟩]

/-- Why a word is illegal: the reasons of R75's table. -/
inductive IllegalReason where
  /-- `unit` is 5 to 15. -/
  | noSuchUnit
  /-- The unit exists and has no such function. -/
  | noSuchFunction
  /-- A format Z command with `imm != 0`. -/
  | operandNotZero
  /-- `BCH.ENC` with `imm[7:5] != 0`. -/
  | formatDataTooWide
  deriving DecidableEq, Repr

/-- The reason of R75 that an illegal word falls under. -/
def illegalReason (w : Word16) : IllegalReason :=
  let c := fieldsOf w
  if 4 < c.unit.toNat then .noSuchUnit
  else match formatOf c.unit c.fn with
    | none => .noSuchFunction
    | some .F => .formatDataTooWide
    | some _ => .operandNotZero

/-- The command a word encodes, or the reason it encodes none (R74, R75). -/
def decode (w : Word16) : Except IllegalReason Instr :=
  match opcodeTable.find? (·.accepts w) with
  | some row => .ok (row.build w)
  | none => .error (illegalReason w)

/-- The word that encodes a command (R73, column "encoding"). -/
def encode : Instr → Word16
  | .sysNop => 0x0000
  | .sysReset => 0x0100
  | .sysStat => 0x0200
  | .rsInit => 0x1000
  | .rsPush b => 0x1100 ||| b.setWidth 16
  | .rsPop => 0x1200
  | .bchEnc d => 0x2000 ||| d.setWidth 16
  | .bchRd => 0x2100
  | .crcInit => 0x3000
  | .crcByte b => 0x3100 ||| b.setWidth 16
  | .crcRd => 0x3200
  | .adlInit => 0x4000
  | .adlByte b => 0x4100 ||| b.setWidth 16
  | .adlRd => 0x4200

/-- The command word whose low `nbits` bits are those of `w` and whose other bits are 0. A command is
one indivisible word of 16 bits (R70, spec/20_memory.md R56), so no bytes have to be laid out. -/
def tableWord (nbits w : Nat) : Word16 := BitVec.ofNat 16 (w % 2 ^ nbits)

/-- The command the decoder reads from a table row's bits. A command has 16 bits, so a row of more
bits is none (log 11). -/
def decodeTableWord (nbits w : Nat) : Option Instr :=
  if 16 < nbits then none
  else match decode (tableWord nbits w) with
    | .ok i => some i
    | .error _ => none

end Sys2Proof
end

