-- ==== Sys2Proof/Machine/State.lean ====
section
/-! DEFINITION. The state of the machine: the eight items of spec/10_state.md R20, and what stands at
the ports of spec/20_memory.md R51. Plain data. -/

namespace Sys2Proof.Machine

/-- What happens at the ports, one event a step (spec/20_memory.md R51, R52, R64;
spec/70_reset_and_hazards.md R271, R272; log 1). -/
inductive PortEvent where
  /-- The host offers a command word and the block accepts it. -/
  | command (w : Word16)
  /-- The host takes the oldest response on offer, if there is one. -/
  | take
  /-- The host asserts the `rst` pin and releases it. -/
  | rst
  deriving DecidableEq, Repr

/-- One response: `rsp_err` and `rsp_data` (spec/20_memory.md R51, spec/30_encoding.md R77). -/
structure Response where
  err : Bool
  data : Word32
  deriving DecidableEq, Repr

/-- The eight items of R20, and nothing else. -/
structure Regs where
  /-- `R[0..9]`: the remainder register, `R[0]` the coefficient of x^9 (R21). -/
  r : Vector Byte 10
  /-- `CNT`: how many codewords of the frame's stream have been delivered (R22). -/
  cnt : BitVec 5
  /-- `FMT`: the last format word (R23). -/
  fmt : BitVec 15
  /-- `CRC`: the running register, not complemented (R24). -/
  crc : Word32
  /-- `A`: the low Adler sum (R25). -/
  a : Word16
  /-- `B`: the high Adler sum (R25). -/
  b : Word16
  /-- `CAUSE`: 0, or the code of the first fault since reset (R26). -/
  cause : BitVec 4
  /-- `BADCMD`: the command word that caused the fault (R26). -/
  badcmd : Word16
  deriving DecidableEq, Repr

/-- The machine: the block's registers, what is still to happen at its ports (oldest first), and the
responses it has given which the host has not taken (oldest first). The last two are the model's own
fields for the channels of R51 (log 1, log 3). -/
structure State where
  regs : Regs
  inbox : List PortEvent
  rsps : List Response
  deriving DecidableEq, Repr

/-- Why the machine could stop. It has no constructor: the spec's faults are entered and the machine
goes on (spec/60_exceptions.md R244, R246), and its step is total (spec/70_reset_and_hazards.md R281,
R282), so nothing raises one (log 9). -/
inductive Fault where
  deriving DecidableEq, Repr

/-- Why a command has no meaning in the model. -/
inductive Refusal where
  /-- Raised by exec's arm of a command that has no meaning yet (none: every arm has one). Safe. -/
  | notModelled (mnemonic : String)
  deriving DecidableEq, Repr

/-- The registers after reset (spec/70_reset_and_hazards.md R270). -/
def Regs.reset : Regs where
  r := #v[0, 0, 0, 0, 0, 0, 0, 0, 0, 0]
  cnt := 0
  fmt := 0x0000
  crc := 0xFFFFFFFF
  a := 1
  b := 0
  cause := 0
  badcmd := 0x0000

/-- The machine after reset: the registers of R270, no response on offer (R272), and no event listed,
so the host has presented nothing yet (log 2). -/
def State.reset : State where
  regs := Regs.reset
  inbox := []
  rsps := []

end Sys2Proof.Machine
end

