-- ==== Sys2Proof/Machine/Constants.lean ====
section
/-! DEFINITION. The fixed parameters and constants of the block (spec/00_scope.md R6,
spec/10_state.md R32). None is state. The numbers of codewords of R130 (16 data, 10
error-correction, 26 in all) and the widths stand as numerals in the rules' own places. -/

namespace Sys2Proof.Machine

/-- `0x11D` without its x^8: what reduction XORs in when a doubled element overflows
(spec/40_gf256_arith.md R100, R102). -/
def gfReduction : Byte := 0x1D

/-- `GEN[0..10]`, the generator polynomial's coefficients, highest power first (spec/41_rs.md R131). -/
def gen : Vector Byte 11 := #v[1, 216, 194, 159, 111, 199, 94, 95, 113, 157, 193]

/-- `BCH_G` (spec/42_bch.md R160). -/
def bchG : BitVec 15 := 0x537

/-- `FMT_MASK` (R160). -/
def fmtMask : BitVec 15 := 0x5412

/-- `CRC_POLY`, reflected (spec/43_crc32.md R180). -/
def crcPoly : Word32 := 0xEDB88320

/-- The CRC register's initial value (R180). -/
def crcInitial : Word32 := 0xFFFFFFFF

/-- What the CRC register is XORed with to give the result (R180). -/
def crcFinalXor : Word32 := 0xFFFFFFFF

/-- `ADLER_MOD` (spec/44_adler32.md R200). -/
abbrev adlerMod : Nat := 65521

/-- The initial `A` (R200). -/
def adlerInitialA : Word16 := 1

/-- The initial `B` (R200). -/
def adlerInitialB : Word16 := 0

end Sys2Proof.Machine
end

