-- ==== Sys2Proof/Machine/Operands.lean ====
section
/-! DEFINITION. The operand forms of the commands and the forms of their results: format data as the
BCH unit reads it (spec/30_encoding.md R72), and zero extension to the response (spec/20_memory.md R54).
The operand fields of a word are `operandB` and `operandF` of Decode.lean. -/

namespace Sys2Proof.Machine

/-- `zext_32(v)`: the data of a response narrower than 32 bits (R54). -/
def zext32 {n : Nat} (v : BitVec n) : Word32 := v.setWidth 32

/-- `(ecLevelBits << 3) | maskIndex`, the five bits of format data (R72, R79). -/
def formatData (ecLevelBits : BitVec 2) (maskIndex : BitVec 3) : BitVec 5 :=
  ecLevelBits ++ maskIndex

/-- `ecLevelBits[1:0]` of format data (R72). -/
def ecLevelBitsOf (d : BitVec 5) : BitVec 2 := d.extractLsb' 3 2

/-- `maskIndex[2:0]` of format data (R72). -/
def maskIndexOf (d : BitVec 5) : BitVec 3 := d.extractLsb' 0 3

end Sys2Proof.Machine
end

