-- ==== Sys2Proof/Machine/Flags.lean ====
section
/-! DEFINITION. The three status flags and the `STATUS` word: functions of the registers, with no
storage of their own (spec/10_state.md R27, R29). -/

namespace Sys2Proof.Machine

/-- `RS_FULL`: all 16 data codewords are taken (R29). -/
def Regs.rsFull (g : Regs) : Bool := decide (16 ≤ g.cnt.toNat)

/-- `RS_DONE`: all 26 codewords of the frame are delivered (R29). -/
def Regs.rsDone (g : Regs) : Bool := decide (g.cnt.toNat = 26)

/-- `FAULT`: the block is in the fault state (R29). -/
def Regs.faulted (g : Regs) : Bool := decide (g.cause ≠ 0)

/-- `STATUS = {BADCMD, 0b00000, RS_DONE, RS_FULL, CNT, CAUSE}` (R27). -/
def Regs.status (g : Regs) : Word32 :=
  g.badcmd ++ 0#5 ++ BitVec.ofBool g.rsDone ++ BitVec.ofBool g.rsFull ++ g.cnt ++ g.cause

end Sys2Proof.Machine
end

