-- ==== Sys2Proof/Machine/Ops.lean ====
section
/-! DEFINITION. The shared operations over the machine: register writes, giving a response
(spec/30_encoding.md R77), raising a fault (spec/60_exceptions.md R244), the fault-state check (R246),
and the two reset sources (spec/70_reset_and_hazards.md R271). -/

namespace Sys2Proof.Machine

/-- What one command or one step answers. -/
abbrev Result := Host.Outcome State Fault Refusal

/-- Write `R[0..9]` and `CNT`, the registers of a Reed-Solomon frame. -/
def State.setFrame (s : State) (r : Vector Byte 10) (cnt : BitVec 5) : State :=
  { s with regs := { s.regs with r := r, cnt := cnt } }

/-- Write `CNT`. -/
def State.setCnt (s : State) (cnt : BitVec 5) : State :=
  { s with regs := { s.regs with cnt := cnt } }

/-- Write `FMT`. -/
def State.setFmt (s : State) (fmt : BitVec 15) : State :=
  { s with regs := { s.regs with fmt := fmt } }

/-- Write `CRC`. -/
def State.setCrc (s : State) (crc : Word32) : State :=
  { s with regs := { s.regs with crc := crc } }

/-- Write `A` and `B`. -/
def State.setAdler (s : State) (a b : Word16) : State :=
  { s with regs := { s.regs with a := a, b := b } }

/-- Write `CAUSE` and `BADCMD`: they are only ever written together (spec/10_state.md R26). -/
def State.setFault (s : State) (cause : BitVec 4) (badcmd : Word16) : State :=
  { s with regs := { s.regs with cause := cause, badcmd := badcmd } }

/-- Put every register to its reset value (spec/70_reset_and_hazards.md R270). -/
def State.resetRegs (s : State) : State := { s with regs := Regs.reset }

/-- What is still to happen at the ports. -/
def State.setInbox (s : State) (inbox : List PortEvent) : State := { s with inbox := inbox }

/-- The responses on offer. -/
def State.setRsps (s : State) (rsps : List Response) : State := { s with rsps := rsps }

/-- `rsp(e, d)`: give one response; it waits behind those not taken yet (spec/20_memory.md R53). -/
def respond (err : Bool) (data : Word32) (s : State) : State := s.setRsps (s.rsps ++ [⟨err, data⟩])

/-- The four causes of a fault (spec/60_exceptions.md R241). -/
inductive Cause where
  | illegal | rsOverrun | rsUnderrun | rsExhausted
  deriving DecidableEq, Repr

/-- The code of a cause (R241). -/
def Cause.code : Cause → BitVec 4
  | .illegal => 1
  | .rsOverrun => 2
  | .rsUnderrun => 3
  | .rsExhausted => 4

/-- `raise Fault(c)` by the command word `cmd`: the fault entry of R244. `CAUSE` and `BADCMD` are
written, the response is `(1, 0)`, and nothing else changes; there is no handler to go to. -/
def raiseFault (c : Cause) (cmd : Word16) (s : State) : State :=
  respond true 0 (s.setFault c.code cmd)

/-- The fault-state check that every command but `SYS.RESET` and `SYS.STAT` begins with: in the fault
state the command is answered `(1, 0)` and nothing changes; else it is performed (R243 step 1, R246). -/
def whenNoFault (s : State) (perform : State → Result) : Result :=
  if s.regs.cause = 0 then perform s else .next (respond true 0 s)

/-- A word that encodes no command is performed: `Fault(ILLEGAL)`, unless the block is in the fault
state (spec/30_encoding.md R75, spec/60_exceptions.md R243). -/
def performIllegal (w : Word16) (s : State) : Result :=
  whenNoFault s fun s => .next (raiseFault .illegal w s)

/-- Leaving the fault state by the pin: `rst` puts every register to its reset value and drops the
responses not taken yet; it gives no response (spec/70_reset_and_hazards.md R271, R272, log 4). -/
def resetByPin (s : State) : State := s.resetRegs.setRsps []

/-- The host takes the oldest response, if one is on offer (spec/20_memory.md R51, R53, R64). -/
def takeResponse (s : State) : State := s.setRsps s.rsps.tail

end Sys2Proof.Machine
end

