-- ==== Sys2Proof/Machine/Adl.lean ====
section
/-! DEFINITION. The Adler-32 unit (spec/44_adler32.md). -/

namespace Sys2Proof.Machine

/-- A natural-number sum reduced modulo 65521; the 16-bit registers never wrap
(spec/40_gf256_arith.md R110). -/
def adlerSum (x y : Nat) : Word16 := BitVec.ofNat 16 ((x + y) % adlerMod)

/-- `adler_step(A, B, b)` (R201): the new sums; the second line uses the new `A`. -/
def adlerStep (sums : Word16 × Word16) (b : Byte) : Word16 × Word16 :=
  let a' := adlerSum sums.1.toNat b.toNat
  (a', adlerSum sums.2.toNat a'.toNat)

/-- The Adler-32 of a message (R205). -/
def adler32 (message : List Byte) : Word32 :=
  let sums := message.foldl adlerStep (adlerInitialA, adlerInitialB)
  sums.2 ++ sums.1

/-- `ADL.INIT` (R202). -/
def execAdlInit (s : State) : Result :=
  whenNoFault s fun s => .next (respond false 0 (s.setAdler adlerInitialA adlerInitialB))

/-- `ADL.BYTE b` (R203). -/
def execAdlByte (b : Byte) (s : State) : Result :=
  whenNoFault s fun s =>
    let sums := adlerStep (s.regs.a, s.regs.b) b
    .next (respond false 0 (s.setAdler sums.1 sums.2))

/-- `ADL.RD` (R204): `{B, A}`. -/
def execAdlRd (s : State) : Result :=
  whenNoFault s fun s => .next (respond false (s.regs.b ++ s.regs.a) s)

end Sys2Proof.Machine
end

