-- ==== Sys2Proof/Machine/Bch.lean ====
section
/-! DEFINITION. The BCH format-information unit (spec/42_bch.md). -/

namespace Sys2Proof.Machine

/-- One round of R161: if bit `i` of `v` is 1, XOR in the generator moved up to bit `i`. -/
def bchRound (v : BitVec 15) (i : Nat) : BitVec 15 :=
  if v.getLsbD i then v ^^^ (bchG <<< (i - 10)) else v

/-- The loop of R161 on a 15-bit value. -/
def bchReduce (v : BitVec 15) : BitVec 15 := [14, 13, 12, 11, 10].foldl bchRound v

/-- `bch_rem(d)`: the 10-bit remainder (R161). -/
def bchRem (d : BitVec 5) : BitVec 10 := (bchReduce (d.setWidth 15 <<< 10)).extractLsb' 0 10

/-- `fmt_word(d)`: data and remainder, masked (R162). -/
def fmtWord (d : BitVec 5) : BitVec 15 := (d ++ bchRem d) ^^^ fmtMask

/-- `BCH.ENC d` (R163): the response carries the new value of `FMT`. -/
def execBchEnc (d : BitVec 5) (s : State) : Result :=
  whenNoFault s fun s => .next (respond false (zext32 (fmtWord d)) (s.setFmt (fmtWord d)))

/-- `BCH.RD` (R164). -/
def execBchRd (s : State) : Result :=
  whenNoFault s fun s => .next (respond false (zext32 s.regs.fmt) s)

end Sys2Proof.Machine
end

