-- ==== Sys2Proof/Machine/Crc.lean ====
section
/-! DEFINITION. The CRC-32 unit (spec/43_crc32.md). -/

namespace Sys2Proof.Machine

/-- One of the eight shifts of R181. -/
def crcShift (c : Word32) : Word32 := if c.getLsbD 0 then (c >>> 1) ^^^ crcPoly else c >>> 1

/-- `crc_step(c, b)` (R181): the byte enters at bits 7:0, then eight shifts. -/
def crcStep (c : Word32) (b : Byte) : Word32 := Nat.repeat crcShift 8 (c ^^^ zext32 b)

/-- The CRC-32 of a message (R185). -/
def crc32 (message : List Byte) : Word32 := message.foldl crcStep crcInitial ^^^ crcFinalXor

/-- `CRC.INIT` (R182). -/
def execCrcInit (s : State) : Result :=
  whenNoFault s fun s => .next (respond false 0 (s.setCrc crcInitial))

/-- `CRC.BYTE b` (R183). -/
def execCrcByte (b : Byte) (s : State) : Result :=
  whenNoFault s fun s => .next (respond false 0 (s.setCrc (crcStep s.regs.crc b)))

/-- `CRC.RD` (R184): the register itself is not complemented. -/
def execCrcRd (s : State) : Result :=
  whenNoFault s fun s => .next (respond false (s.regs.crc ^^^ crcFinalXor) s)

end Sys2Proof.Machine
end

