-- ==== Sys2Proof/Machine/Gf256.lean ====
section
/-! DEFINITION. Arithmetic in GF(256) (spec/40_gf256_arith.md). An element is a byte; bit `i` is the
coefficient of x^i (R100). Addition is XOR (R101). -/

namespace Sys2Proof.Machine

/-- Addition, and subtraction (R101). -/
def gfAdd (a b : Byte) : Byte := a ^^^ b

/-- Multiplication by `alpha` (R102). -/
def xtime (a : Byte) : Byte := (a <<< 1) ^^^ (if a.getLsbD 7 then gfReduction else 0)

/-- One round of R103: add `a` to the product when bit `i` of `b` is set, then multiply `a` by
`alpha`. The pair is (product, `a`). -/
def gfMulRound (b : Byte) (acc : Byte × Byte) (i : Nat) : Byte × Byte :=
  (if b.getLsbD i then acc.1 ^^^ acc.2 else acc.1, xtime acc.2)

/-- Multiplication: the bit-serial algorithm of R103. -/
def gfMul (a b : Byte) : Byte := ([0, 1, 2, 3, 4, 5, 6, 7].foldl (gfMulRound b) (0, a)).1

/-- `alpha^n` (R104, R105): `alpha^0 = 1`, `alpha^(n+1) = xtime(alpha^n)`. -/
def alphaPow : Nat → Byte
  | 0 => 1
  | n + 1 => xtime (alphaPow n)

/-- `EXP[i] = alpha^(i mod 255)` (R105). -/
def expEntry (i : Nat) : Byte := alphaPow (i % 255)

/-- `EXP[0..511]`, all 512 entries (R105; spec/90_conflicts.md C1). -/
def expTable : List Byte := (List.range 512).map expEntry

/-- Search the powers `p = alpha^i, alpha^(i+1), ...` (`n` of them) for `a`; the index where it is. -/
def logSearch (a : Byte) : Nat → Nat → Byte → Option Nat
  | 0, _, _ => none
  | n + 1, i, p => if p = a then some i else logSearch a n (i + 1) (xtime p)

/-- `LOG[a]`: the `i` from 0 to 254 with `EXP[i] = a` (R106). Zero has no logarithm: `none`. -/
def gfLog (a : Byte) : Option Nat := logSearch a 255 0 1

/-- Table multiplication (R107): 0 if an operand is 0, that is, has no logarithm; else
`EXP[LOG[a] + LOG[b]]`, the index not reduced. -/
def gfMulTab (a b : Byte) : Byte :=
  match gfLog a, gfLog b with
  | some u, some v => expEntry (u + v)
  | _, _ => 0

end Sys2Proof.Machine
end

