-- ==== Sys2Proof/Machine/Rs.lean ====
section
/-! DEFINITION. The Reed-Solomon unit (spec/41_rs.md): its divider and its three commands, and the
reference division and the polynomials of R131, R132 that the rules of that file compare it with. -/

namespace Sys2Proof.Machine

/-- The remainder of the empty message. -/
def zeroRemainder : Vector Byte 10 := #v[0, 0, 0, 0, 0, 0, 0, 0, 0, 0]

/-- `rs_step(R, b)` (R134): with `fb = b ^ R[0]`, the new `R'[j]` is `R[j+1] ^ gf_mul(fb, GEN[j+1])`,
where nothing (0) stands beyond `R[9]`. -/
def rsStep (r : Vector Byte 10) (b : Byte) : Vector Byte 10 :=
  let fb := b ^^^ r[0]
  #v[r[1] ^^^ gfMul fb gen[1], r[2] ^^^ gfMul fb gen[2], r[3] ^^^ gfMul fb gen[3],
     r[4] ^^^ gfMul fb gen[4], r[5] ^^^ gfMul fb gen[5], r[6] ^^^ gfMul fb gen[6],
     r[7] ^^^ gfMul fb gen[7], r[8] ^^^ gfMul fb gen[8], r[9] ^^^ gfMul fb gen[9],
     gfMul fb gen[10]]

/-- `R_k` of R135: the remainder register after the bytes `d` are pushed into a new frame. -/
def rsRemainder (d : List Byte) : Vector Byte 10 := d.foldl rsStep zeroRemainder

/-- `RS.INIT` (R136). -/
def execRsInit (s : State) : Result :=
  whenNoFault s fun s => .next (respond false 0 (s.setFrame zeroRemainder 0))

/-- `RS.PUSH b` (R137). -/
def execRsPush (b : Byte) (s : State) : Result :=
  whenNoFault s fun s =>
    if 16 ≤ s.regs.cnt.toNat then .next (raiseFault .rsOverrun (encode (.rsPush b)) s)
    else .next (respond false (zext32 b) (s.setFrame (rsStep s.regs.r b) (s.regs.cnt + 1)))

/-- `RS.POP` (R138). No run reaches `CNT` above 26; there the frame counts as exhausted (log 6). -/
def execRsPop (s : State) : Result :=
  whenNoFault s fun s =>
    if s.regs.cnt.toNat < 16 then .next (raiseFault .rsUnderrun (encode .rsPop) s)
    else if h : s.regs.cnt.toNat < 26 then
      .next (respond false (zext32 s.regs.r[s.regs.cnt.toNat - 16])
        (s.setCnt (s.regs.cnt + 1)))
    else .next (raiseFault .rsExhausted (encode .rsPop) s)

/-! ### The reference division (R132) and the generator polynomial (R131) -/

/-- The coefficient of a list at a position; 0 outside it. -/
def coeff (m : List Byte) (i : Nat) : Byte := m.getD i 0

/-- One iteration of R132's loop, at position `i`: with `c = m[i]`, `m[i+j]` becomes
`m[i+j] ^ gf_mul(GEN[j], c)` for `j` from 1 to 10. -/
def divideAt (m : List Byte) (i : Nat) : List Byte :=
  m.mapIdx fun p x =>
    if i < p ∧ p ≤ i + 10 then x ^^^ gfMul (coeff gen.toList (p - i)) (coeff m i) else x

/-- R132's loop on a data block of any length: `m` is the data and ten zeros, the loop runs over the
positions of the data, and the last ten entries of `m` are the remainder. -/
def divideBlock (d : List Byte) : List Byte :=
  ((List.range d.length).foldl divideAt (d ++ List.replicate 10 0)).drop d.length

/-- `rs_ec(d)` (R132): the ten error-correction codewords of a data block. -/
def rsEc (d : Vector Byte 16) : List Byte := divideBlock d.toList

/-- The 26-codeword stream of a data block (R133): the data, then its EC codewords. -/
def rsStream (d : Vector Byte 16) : List Byte := d.toList ++ rsEc d

/-- The value of a polynomial at `x`; its coefficients stand highest power first (R9). -/
def polyEval (p : List Byte) (x : Byte) : Byte := p.foldl (fun acc c => gfMul acc x ^^^ c) 0

/-- A polynomial times the factor `(x + root)`, coefficients highest power first (R101, R131). -/
def polyMulRoot (p : List Byte) (root : Byte) : List Byte :=
  List.zipWith (· ^^^ ·) (p ++ [0]) (0 :: p.map (gfMul · root))

/-- The product of the first `n` factors `(x + alpha^i)`, `i` from 0 (R131). -/
def genProduct : Nat → List Byte
  | 0 => [1]
  | n + 1 => polyMulRoot (genProduct n) (alphaPow n)

end Sys2Proof.Machine
end

