-- ==== Sys2Proof/Machine/Sys.lean ====
section
/-! DEFINITION. The system commands (spec/45_sys.md). `SYS.RESET` and `SYS.STAT` are performed in the
fault state too (spec/60_exceptions.md R246). -/

namespace Sys2Proof.Machine

/-- `SYS.NOP` (R220). -/
def execSysNop (s : State) : Result := whenNoFault s fun s => .next (respond false 0 s)

/-- `SYS.RESET` (R221), the return from the fault state (spec/60_exceptions.md R247): unlike the pin it
is answered, and responses to earlier commands are not lost. -/
def execSysReset (s : State) : Result := .next (respond false 0 s.resetRegs)

/-- `SYS.STAT` (R222). -/
def execSysStat (s : State) : Result := .next (respond false s.regs.status s)

end Sys2Proof.Machine
end

