-- ==== Sys2Proof/Machine/Dispatch.lean ====
section
/-! DEFINITION. One arm per command (spec/30_encoding.md R73). -/

namespace Sys2Proof.Machine

def exec (i : Instr) (s : State) : Host.Outcome State Fault Refusal :=
  match i with
  | .sysNop => Sys2Proof.Machine.execSysNop s
  | .sysReset => Sys2Proof.Machine.execSysReset s
  | .sysStat => Sys2Proof.Machine.execSysStat s
  | .rsInit => Sys2Proof.Machine.execRsInit s
  | .rsPush b => Sys2Proof.Machine.execRsPush b s
  | .rsPop => Sys2Proof.Machine.execRsPop s
  | .bchEnc d => Sys2Proof.Machine.execBchEnc d s
  | .bchRd => Sys2Proof.Machine.execBchRd s
  | .crcInit => Sys2Proof.Machine.execCrcInit s
  | .crcByte b => Sys2Proof.Machine.execCrcByte b s
  | .crcRd => Sys2Proof.Machine.execCrcRd s
  | .adlInit => Sys2Proof.Machine.execAdlInit s
  | .adlByte b => Sys2Proof.Machine.execAdlByte b s
  | .adlRd => Sys2Proof.Machine.execAdlRd s

end Sys2Proof.Machine
end

