-- ==== Sys2Proof/Machine/Transaction.lean ====
section
/-! DEFINITION. One transaction at the ports (spec/00_scope.md R7, spec/20_memory.md R52): what the
machine does with the next event. -/

namespace Sys2Proof.Machine

/-- An accepted command word is performed whole: the command it encodes, or `Fault(ILLEGAL)`
(spec/30_encoding.md R74, R75; the fault-state check stands first in both, spec/60_exceptions.md R243). -/
def performWord (w : Word16) (s : State) : Result :=
  match decode w with
  | .ok i => exec i s
  | .error _ => performIllegal w s

/-- What one event at the ports does. -/
def performEvent (e : PortEvent) (s : State) : Result :=
  match e with
  | .command w => performWord w s
  | .take => .next (takeResponse s)
  | .rst => .next (resetByPin s)

/-- One step: the next event leaves the list and is performed; with none the block is idle, and
"idling changes no state" (spec/60_exceptions.md R252, log 5). -/
def stepPorts (s : State) : Result :=
  match s.inbox with
  | [] => .next s
  | e :: rest => performEvent e (s.setInbox rest)

/-- The host offers a command word, ahead of everything else that is to happen at the ports. -/
def offerNext (w : Word16) (s : State) : State := s.setInbox (.command w :: s.inbox)

end Sys2Proof.Machine
end

