-- ==== Sys2Proof/Machine/Step.lean ====
section
/-! DEFINITION. The step of the machine, and how a command word is placed before it. -/

namespace Sys2Proof.Machine

/-- One step of the machine (spec/00_scope.md R7): one transaction at the ports. -/
def step (s : State) : Host.Outcome State Fault Refusal := stepPorts s

/-- The state in which the very next step accepts and performs the command word whose low `nbits` bits
are those of `w`: the host offers it (log 2). -/
def State.withFetchWord (s : State) (nbits w : Nat) : State := offerNext (tableWord nbits w) s

end Sys2Proof.Machine
end

