-- ==== Sys2Proof/Machine/Assembly.lean ====
section
/-! DEFINITION. The spelling of commands (spec/30_encoding.md R78) and the expansion of the
pseudo-commands (R79). Nothing the block does depends on this file. -/

namespace Sys2Proof.Machine

/-- The commands a pseudo-command stands for (R79). -/
def expand : Pseudo → List Instr
  | .rsEnc bytes => .rsInit :: (bytes.map .rsPush ++ List.replicate 10 .rsPop)
  | .fmtEnc ecl mask => [.bchEnc (formatData (BitVec.ofNat 2 ecl) (BitVec.ofNat 3 mask))]
  | .crcMsg bytes => .crcInit :: (bytes.map .crcByte ++ [.crcRd])
  | .adlMsg bytes => .adlInit :: (bytes.map .adlByte ++ [.adlRd])

/-- The mnemonic of a command (R73, R78). -/
def mnemonicOf : Instr → String
  | .sysNop => "SYS.NOP"
  | .sysReset => "SYS.RESET"
  | .sysStat => "SYS.STAT"
  | .rsInit => "RS.INIT"
  | .rsPush _ => "RS.PUSH"
  | .rsPop => "RS.POP"
  | .bchEnc _ => "BCH.ENC"
  | .bchRd => "BCH.RD"
  | .crcInit => "CRC.INIT"
  | .crcByte _ => "CRC.BYTE"
  | .crcRd => "CRC.RD"
  | .adlInit => "ADL.INIT"
  | .adlByte _ => "ADL.BYTE"
  | .adlRd => "ADL.RD"

/-- The value of a digit of base up to 16, in either case (log 10). -/
def digitValue (c : Char) : Nat :=
  if '0' ≤ c ∧ c ≤ '9' then c.toNat - '0'.toNat
  else if 'a' ≤ c ∧ c ≤ 'f' then c.toNat - 'a'.toNat + 10
  else if 'A' ≤ c ∧ c ≤ 'F' then c.toNat - 'A'.toNat + 10
  else 16

/-- The number one or more digits of a base denote. -/
def readDigits (base : Nat) (digits : List Char) : Option Nat :=
  if digits.isEmpty || digits.any (fun c => base ≤ digitValue c) then none
  else some (digits.foldl (fun n c => n * base + digitValue c) 0)

/-- A number in hexadecimal (`0x`), binary (`0b`) or decimal (R78). -/
def readNumber : List Char → Option Nat
  | '0' :: 'x' :: digits => readDigits 16 digits
  | '0' :: 'b' :: digits => readDigits 2 digits
  | digits => readDigits 10 digits

/-- An operand of format B: a number, or one ASCII character in single quotes (R78); it must fit a
byte (R72). -/
def readByte (operand : List Char) : Option Byte :=
  let n := match operand with
    | ['\'', c, '\''] => if c.toNat < 128 then some c.toNat else none
    | _ => readNumber operand
  n.bind fun n => if n < 256 then some (BitVec.ofNat 8 n) else none

/-- An operand of format F: a number that fits five bits (R72, R78). -/
def readFormatData (operand : List Char) : Option (BitVec 5) :=
  (readNumber operand).bind fun n => if n < 32 then some (BitVec.ofNat 5 n) else none

/-- The part of a line before the comment, which `;` starts and which runs to the end of the line; a
quoted character is no start of a comment (R78, log 10). -/
def beforeComment : List Char → List Char
  | '\'' :: c :: '\'' :: rest => '\'' :: c :: '\'' :: beforeComment rest
  | ';' :: _ => []
  | c :: rest => c :: beforeComment rest
  | [] => []

/-- A line without its comment and the spaces before it. -/
def dropComment (line : List Char) : List Char :=
  ((beforeComment line).reverse.dropWhile (· = ' ')).reverse

/-- A command without operand, by its mnemonic (format Z). -/
def assembleZ : String → Option Instr
  | "SYS.NOP" => some .sysNop
  | "SYS.RESET" => some .sysReset
  | "SYS.STAT" => some .sysStat
  | "RS.INIT" => some .rsInit
  | "RS.POP" => some .rsPop
  | "BCH.RD" => some .bchRd
  | "CRC.INIT" => some .crcInit
  | "CRC.RD" => some .crcRd
  | "ADL.INIT" => some .adlInit
  | "ADL.RD" => some .adlRd
  | _ => none

/-- A command with an operand, by its mnemonic and the operand's characters (formats B and F). -/
def assembleOperand (mnemonic : String) (operand : List Char) : Option Instr :=
  match mnemonic with
  | "RS.PUSH" => (readByte operand).map .rsPush
  | "BCH.ENC" => (readFormatData operand).map .bchEnc
  | "CRC.BYTE" => (readByte operand).map .crcByte
  | "ADL.BYTE" => (readByte operand).map .adlByte
  | _ => none

/-- The command a line spells: `UNIT.FUNC`, for formats B and F one space and one operand, and perhaps
a comment (R78); `none` if the line spells no command. -/
def assemble (line : List Char) : Option Instr :=
  let code := dropComment line
  let mnemonic := String.ofList (code.takeWhile (· ≠ ' '))
  match code.dropWhile (· ≠ ' ') with
  | [] => assembleZ mnemonic
  | _ :: operand => assembleOperand mnemonic operand

/-- The listing spelling of a command: its mnemonic and its operand in decimal (R78). -/
def spell (i : Instr) : List Char :=
  let operand (n : Nat) := ' ' :: Nat.toDigits 10 n
  (mnemonicOf i).toList ++ match i with
    | .rsPush b => operand b.toNat
    | .bchEnc d => operand d.toNat
    | .crcByte b => operand b.toNat
    | .adlByte b => operand b.toNat
    | .sysNop | .sysReset | .sysStat | .rsInit | .rsPop | .bchRd => []
    | .crcInit | .crcRd | .adlInit | .adlRd => []

end Sys2Proof.Machine
end

