-- ==== Sys2Proof/Machine/Ports.lean ====
section
/-! DEFINITION. What the host sees at the output ports (spec/20_memory.md R51): functions of the state,
with no storage of their own. -/

namespace Sys2Proof.Machine

/-- `cmd_valid` and `cmd`: the word the host offers, if the next thing to happen is its acceptance. -/
def State.offeredCommand (s : State) : Option Word16 :=
  match s.inbox with
  | .command w :: _ => some w
  | _ => none

/-- `rsp_valid`, `rsp_err` and `rsp_data`: the oldest response not taken yet (R53, R64); with none on
offer `rsp_valid` is 0. -/
def State.offeredResponse (s : State) : Option Response := s.rsps.head?

/-- The `fault` output: 1 exactly while `CAUSE != 0` (spec/60_exceptions.md R248). -/
def State.faultPin (s : State) : Bool := s.regs.faulted

end Sys2Proof.Machine
end

