-- ==== Sys2Proof/Safety.lean ====
section
/-! DEFINITION. What counts as a safe state and a safe run of the block, and the words the statements
are written in. -/

namespace Sys2Proof.Machine

/-- The state after one command from `s`: the registers are `g`, one response `(err, data)` has been
given behind those on offer, and what is still to happen at the ports is as before. -/
def State.answered (s : State) (g : Regs) (err : Bool) (data : Word32) : State :=
  ⟨g, s.inbox, s.rsps ++ [⟨err, data⟩]⟩

/-- Several steps, stopping at the first that answers no next state. -/
def runSteps : Nat → State → Result
  | 0, s => .next s
  | n + 1, s =>
    match step s with
    | .next t => runSteps n t
    | .fault r => .fault r
    | .refused r => .refused r

/-- The host presents these commands, one after another. -/
def presented (commands : List Instr) : List PortEvent := commands.map fun i => .command (encode i)

/-- The block is not in the fault state (spec/10_state.md R29). -/
abbrev NoFault (s : State) : Prop := s.regs.cause = 0

/-- A run of `n` steps is safe when it answers a state and no fault has been raised by then; the fault
state is left by reset only, so a run with no reset that ends outside it never entered it. -/
def SafeRun (n : Nat) (s : State) : Prop := ∃ t, runSteps n s = .next t ∧ NoFault t

/-- `d` is what has been pushed into the frame: `CNT` counts its bytes until the frame has 16, and `R`
is the remainder they leave (spec/10_state.md R21, R22). -/
structure FrameHolds (d : List Byte) (g : Regs) : Prop where
  cnt_le : g.cnt.toNat ≤ 26
  length : d.length = min g.cnt.toNat 16
  remainder : g.r = rsRemainder d

/-- The invariant of the registers (spec/10_state.md R34). Clauses (e) and (f) of R34 follow from
`frame`, which says what `R` is at every `CNT`. -/
structure Regs.Inv (g : Regs) : Prop where
  frame : ∃ d, FrameHolds d g
  a_lt : g.a.toNat < adlerMod
  b_lt : g.b.toNat < adlerMod
  fmt_word : g.fmt = 0 ∨ ∃ d, g.fmt = fmtWord d
  cause_le : g.cause.toNat ≤ 4
  badcmd_zero : g.cause = 0 ↔ g.badcmd = 0

/-- The invariant of the machine. -/
def State.Inv (s : State) : Prop := s.regs.Inv

/-- What a command makes of the bytes `d` pushed into the frame so far: a reset and `RS.INIT` start a
new frame, an accepted `RS.PUSH` adds its byte (spec/41_rs.md R136, R137; spec/45_sys.md R221). -/
def pushedBy (i : Instr) (g : Regs) (d : List Byte) : List Byte :=
  match i with
  | .sysReset => []
  | .rsInit => if g.cause = 0 then [] else d
  | .rsPush b => if g.cause = 0 ∧ g.cnt.toNat < 16 then d ++ [b] else d
  | .sysNop | .sysStat | .rsPop | .bchEnc _ | .bchRd => d
  | .crcInit | .crcByte _ | .crcRd | .adlInit | .adlByte _ | .adlRd => d

/-- The bytes pushed into the frame after the next step, if `d` have been pushed before it. -/
def pushedAfter (s : State) (d : List Byte) : List Byte :=
  match s.inbox with
  | .rst :: _ => []
  | .command w :: _ =>
    match decode w with
    | .ok i => pushedBy i s.regs d
    | .error _ => d
  | .take :: _ => d
  | [] => d

/-- The bytes pushed into the frame after `n` steps, if `d` have been pushed before them: `pushedAfter`
folded over the run. -/
def pushedDuring : Nat → State → List Byte → List Byte
  | 0, _, d => d
  | n + 1, s, d =>
    match step s with
    | .next t => pushedDuring n t (pushedAfter s d)
    | .fault _ => d
    | .refused _ => d

/-- The data a performed command answers with (spec/30_encoding.md R77); for `RS.POP` it is
`R[CNT - 16]`. -/
def responseData (i : Instr) (g : Regs) : Word32 :=
  match i with
  | .sysNop | .sysReset | .rsInit | .crcInit | .crcByte _ | .adlInit | .adlByte _ => 0
  | .sysStat => g.status
  | .rsPush b => zext32 b
  | .rsPop => zext32 (coeff g.r.toList (g.cnt.toNat - 16))
  | .bchEnc d => zext32 (fmtWord d)
  | .bchRd => zext32 g.fmt
  | .crcRd => g.crc ^^^ 0xFFFFFFFF
  | .adlRd => g.b ++ g.a

/-- The registers outside a unit are the same in `g` and `h` (the columns "unit" and "written by" of
spec/10_state.md R20). `CAUSE` and `BADCMD` belong to SYS. -/
def sameOutside (u : CommandUnit) (g h : Regs) : Prop :=
  (u = .rs ∨ (g.r = h.r ∧ g.cnt = h.cnt)) ∧
  (u = .bch ∨ g.fmt = h.fmt) ∧
  (u = .crc ∨ g.crc = h.crc) ∧
  (u = .adl ∨ (g.a = h.a ∧ g.b = h.b)) ∧
  (u = .sys ∨ (g.cause = h.cause ∧ g.badcmd = h.badcmd))

end Sys2Proof.Machine
end

