-- ==== Sys2Proof/Certificates/Slice0/Obligations.lean ====
section
/-! DEFINITION. The statements for the provers. `s.answered g err data` (Safety.lean) is the state `s`
with registers `g` and one more response at the end of those on offer; what is still to happen at the
ports, and the responses already on offer, are as before. -/

open Sys2Proof Sys2Proof.Machine

/-! ### Reset (spec/70_reset_and_hazards.md) -/

/-- R270: every register, flag, pin and the `STATUS` word after reset. -/
def Obligations.ResetStateIsAsStated : Prop :=
  (∀ j : Fin 10, State.reset.regs.r[j] = 0) ∧ State.reset.regs.cnt = 0 ∧
  State.reset.regs.fmt = 0x0000 ∧ State.reset.regs.crc = 0xFFFFFFFF ∧
  State.reset.regs.a = 1 ∧ State.reset.regs.b = 0 ∧
  State.reset.regs.cause = 0 ∧ State.reset.regs.badcmd = 0x0000 ∧
  State.reset.regs.rsFull = false ∧ State.reset.regs.rsDone = false ∧
  State.reset.regs.faulted = false ∧ State.reset.faultPin = false ∧
  State.reset.regs.status = 0x00000000

/-- R221 and R271: `SYS.RESET` and the `rst` pin leave the same registers from every state. `SYS.RESET`
is answered and keeps the responses on offer (R221). That the pin is one event, which drops the
responses on offer (R272) and leaves the events behind it listed, is the model's reading (log 4). -/
def Obligations.BothResetSourcesLeaveTheResetState : Prop :=
  (∀ s, exec .sysReset s = .next (s.answered State.reset.regs false 0)) ∧
  (∀ s rest, s.inbox = .rst :: rest → step s = .next ⟨State.reset.regs, rest, []⟩)

/-- R273, R274: the reset values are the values each unit's `INIT` leaves. -/
def Obligations.InitCommandsLeaveTheResetValues : Prop :=
  ∀ i ∈ [Instr.rsInit, .crcInit, .adlInit], ∀ s : State, s.regs = State.reset.regs →
    exec i s = .next (s.answered State.reset.regs false 0)

/-! ### The step -/

/-- The word at the head of the ports is decoded and its command performed, with that word gone from
what is still to happen (spec/20_memory.md R52, spec/30_encoding.md R74; log 1). -/
def Obligations.StepPerformsTheOfferedCommand : Prop :=
  ∀ (s : State) (w : Word16) (rest : List PortEvent) (i : Instr),
    s.inbox = .command w :: rest → decode w = .ok i →
    step s = exec i { s with inbox := rest }

/-- A step with nothing at the ports changes nothing (spec/60_exceptions.md R252; log 5). -/
def Obligations.IdleStepChangesNothing : Prop :=
  ∀ s : State, s.inbox = [] → step s = .next s

/-- The host takes the oldest response; nothing else changes (spec/20_memory.md R53, R64; log 1). -/
def Obligations.TakingDeliversTheOldestResponse : Prop :=
  ∀ (s : State) (rest : List PortEvent), s.inbox = .take :: rest →
    (∀ r rs, s.rsps = r :: rs → s.offeredResponse = some r ∧ step s = .next ⟨s.regs, rest, rs⟩) ∧
    (s.rsps = [] → step s = .next ⟨s.regs, rest, []⟩)

/-- R281, R282: every step answers a next state, and a run performs everything presented. -/
def Obligations.EveryPresentedEventIsPerformed : Prop :=
  (∀ s, ∃ t, step s = .next t ∧ t.inbox = s.inbox.tail) ∧
  (∀ s : State, ∃ t, runSteps s.inbox.length s = .next t ∧ t.inbox = [])

/-! ### Encoding (spec/30_encoding.md) -/

/-- Words written out from the column "encoding" of R73. -/
def Obligations.SpecEncodingsDecode : Prop :=
  decode 0b0000000000000000 = .ok .sysNop ∧ decode 0b0000001000000000 = .ok .sysStat ∧
  decode 0b0001000101010100 = .ok (.rsPush 0x54) ∧ decode 0b0001001000000000 = .ok .rsPop ∧
  decode 0b0010000000010011 = .ok (.bchEnc 0b10011) ∧
  decode 0b0011000101001001 = .ok (.crcByte 0x49) ∧
  decode 0b0100001000000000 = .ok .adlRd ∧
  decode 0b0001001000000001 = .error .operandNotZero

/-- R73: each row by its mask and match, with its operand; and the legal words. -/
def Obligations.WordsDecodeByMaskAndMatch : Prop :=
  ∀ w : Word16,
    (decode w = .ok .sysNop ↔ w &&& 0xFFFF = 0x0000) ∧
    (decode w = .ok .sysReset ↔ w &&& 0xFFFF = 0x0100) ∧
    (decode w = .ok .sysStat ↔ w &&& 0xFFFF = 0x0200) ∧
    (decode w = .ok .rsInit ↔ w &&& 0xFFFF = 0x1000) ∧
    (∀ b, decode w = .ok (.rsPush b) ↔ w &&& 0xFF00 = 0x1100 ∧ b = w.extractLsb' 0 8) ∧
    (decode w = .ok .rsPop ↔ w &&& 0xFFFF = 0x1200) ∧
    (∀ d, decode w = .ok (.bchEnc d) ↔ w &&& 0xFFE0 = 0x2000 ∧ d = w.extractLsb' 0 5) ∧
    (decode w = .ok .bchRd ↔ w &&& 0xFFFF = 0x2100) ∧
    (decode w = .ok .crcInit ↔ w &&& 0xFFFF = 0x3000) ∧
    (∀ b, decode w = .ok (.crcByte b) ↔ w &&& 0xFF00 = 0x3100 ∧ b = w.extractLsb' 0 8) ∧
    (decode w = .ok .crcRd ↔ w &&& 0xFFFF = 0x3200) ∧
    (decode w = .ok .adlInit ↔ w &&& 0xFFFF = 0x4000) ∧
    (∀ b, decode w = .ok (.adlByte b) ↔ w &&& 0xFF00 = 0x4100 ∧ b = w.extractLsb' 0 8) ∧
    (decode w = .ok .adlRd ↔ w &&& 0xFFFF = 0x4200) ∧
    ((∃ i, decode w = .ok i) ↔
      w.toNat ∈ [0x0000, 0x0100, 0x0200, 0x1000, 0x1200, 0x2100, 0x3000, 0x3200, 0x4000, 0x4200] ∨
      (0x1100 ≤ w.toNat ∧ w.toNat ≤ 0x11FF) ∨ (0x2000 ≤ w.toNat ∧ w.toNat ≤ 0x201F) ∨
      (0x3100 ≤ w.toNat ∧ w.toNat ≤ 0x31FF) ∨ (0x4100 ≤ w.toNat ∧ w.toNat ≤ 0x41FF))

/-- R75: the illegal words by reason, and what performing one does outside the fault state. -/
def Obligations.IllegalWordsAreTheListedAndFault : Prop :=
  (∀ w : Word16,
    (decode w = .error .noSuchUnit ↔ 0x5000 ≤ w.toNat) ∧
    (decode w = .error .noSuchFunction ↔
      (0x0300 ≤ w.toNat ∧ w.toNat ≤ 0x0FFF) ∨ (0x1300 ≤ w.toNat ∧ w.toNat ≤ 0x1FFF) ∨
      (0x2200 ≤ w.toNat ∧ w.toNat ≤ 0x2FFF) ∨ (0x3300 ≤ w.toNat ∧ w.toNat ≤ 0x3FFF) ∨
      (0x4300 ≤ w.toNat ∧ w.toNat ≤ 0x4FFF)) ∧
    (decode w = .error .operandNotZero ↔
      (0x0001 ≤ w.toNat ∧ w.toNat ≤ 0x00FF) ∨ (0x0101 ≤ w.toNat ∧ w.toNat ≤ 0x01FF) ∨
      (0x0201 ≤ w.toNat ∧ w.toNat ≤ 0x02FF) ∨ (0x1001 ≤ w.toNat ∧ w.toNat ≤ 0x10FF) ∨
      (0x1201 ≤ w.toNat ∧ w.toNat ≤ 0x12FF) ∨ (0x2101 ≤ w.toNat ∧ w.toNat ≤ 0x21FF) ∨
      (0x3001 ≤ w.toNat ∧ w.toNat ≤ 0x30FF) ∨ (0x3201 ≤ w.toNat ∧ w.toNat ≤ 0x32FF) ∨
      (0x4001 ≤ w.toNat ∧ w.toNat ≤ 0x40FF) ∨ (0x4201 ≤ w.toNat ∧ w.toNat ≤ 0x42FF)) ∧
    (decode w = .error .formatDataTooWide ↔ 0x2020 ≤ w.toNat ∧ w.toNat ≤ 0x20FF)) ∧
  (∀ (s : State) (w : Word16) (rest : List PortEvent),
    s.inbox = .command w :: rest → NoFault s → (∀ row ∈ opcodeTable, w &&& row.mask ≠ row.pattern) →
    step s = .next ⟨{ s.regs with cause := 1, badcmd := w }, rest, s.rsps ++ [⟨true, 0⟩]⟩)

/-- Decoding gives back every command that was encoded, with its operand. -/
def Obligations.DecodeInvertsEncode : Prop := ∀ i : Instr, decode (encode i) = .ok i

/-- Encoding gives back every legal word: no two words are the same command. -/
def Obligations.EncodeInvertsDecode : Prop := ∀ (w : Word16) (i : Instr), decode w = .ok i → encode i = w

/-- R78: the assembler reads every command back from its spelling (log 10). -/
def Obligations.AssemblerReadsWhatItSpells : Prop := ∀ i : Instr, assemble (spell i) = some i

/-! ### SYS (spec/45_sys.md) and the STATUS word (spec/10_state.md) -/

/-- R220: `SYS.NOP` changes no state; in the fault state it is refused. -/
def Obligations.SysNopOnlyAnswers : Prop :=
  ∀ s : State,
    (NoFault s → exec .sysNop s = .next (s.answered s.regs false 0)) ∧
    (¬ NoFault s → exec .sysNop s = .next (s.answered s.regs true 0))

/-- R222: `SYS.STAT` answers the status word in every state and changes no register. -/
def Obligations.SysStatAnswersTheStatusWord : Prop :=
  ∀ s : State, ∃ word : Word32, exec .sysStat s = .next (s.answered s.regs false word) ∧
    word.toNat = s.regs.badcmd.toNat * 2 ^ 16 + (if s.regs.cnt.toNat = 26 then 2 ^ 10 else 0) +
      (if 16 ≤ s.regs.cnt.toNat then 2 ^ 9 else 0) + s.regs.cnt.toNat * 2 ^ 4 + s.regs.cause.toNat

/-- R27: the fields of `STATUS`, one by one. -/
def Obligations.StatusWordHasTheStatedFields : Prop :=
  ∀ g : Regs,
    g.status.extractLsb' 0 4 = g.cause ∧ g.status.extractLsb' 4 5 = g.cnt ∧
    (g.status.getLsbD 9 = true ↔ 16 ≤ g.cnt.toNat) ∧
    (g.status.getLsbD 10 = true ↔ g.cnt.toNat = 26) ∧
    g.status.extractLsb' 11 5 = 0 ∧ g.status.extractLsb' 16 16 = g.badcmd

/-! ### RS (spec/41_rs.md) -/

/-- R136: `RS.INIT` clears `R` and `CNT`, and so both flags; in the fault state it is refused. -/
def Obligations.RsInitStartsAFrame : Prop :=
  ∀ s : State,
    (NoFault s → ∃ g : Regs, exec .rsInit s = .next (s.answered g false 0) ∧
      g = { s.regs with r := #v[0, 0, 0, 0, 0, 0, 0, 0, 0, 0], cnt := 0 } ∧
      g.rsFull = false ∧ g.rsDone = false) ∧
    (¬ NoFault s → exec .rsInit s = .next (s.answered s.regs true 0))

/-- R134: the divider's step, entry by entry. -/
def Obligations.DividerStepIsAsStated : Prop :=
  ∀ (r : Vector Byte 10) (b : Byte),
    (∀ (j : Nat) (h : j < 9),
      (rsStep r b)[j] = r[j + 1] ^^^ gfMul (b ^^^ r[0]) gen[j + 1]) ∧
    (rsStep r b)[9] = gfMul (b ^^^ r[0]) gen[10]

/-- R137: `RS.PUSH` takes a codeword while the frame has fewer than 16, and faults after that. -/
def Obligations.RsPushTakesACodewordOrOverruns : Prop :=
  ∀ (s : State) (b : Byte), NoFault s →
    (s.regs.cnt.toNat < 16 → ∃ g : Regs, exec (.rsPush b) s = .next (s.answered g false (b.setWidth 32)) ∧
      g = { s.regs with r := rsStep s.regs.r b, cnt := g.cnt } ∧
      g.cnt.toNat = s.regs.cnt.toNat + 1 ∧ (g.rsFull = true ↔ s.regs.cnt.toNat = 15)) ∧
    (16 ≤ s.regs.cnt.toNat → exec (.rsPush b) s =
      .next (s.answered { s.regs with cause := 2, badcmd := 0x1100 ||| b.setWidth 16 } true 0))

/-- R138: `RS.POP` delivers `R[CNT - 16]` from the 16th push to the 26th codeword, and faults before and
after; `R` is never written. -/
def Obligations.RsPopDeliversACodewordOrFaults : Prop :=
  ∀ s : State, NoFault s →
    (s.regs.cnt.toNat < 16 →
      exec .rsPop s = .next (s.answered { s.regs with cause := 3, badcmd := 0x1200 } true 0)) ∧
    (s.regs.cnt.toNat = 26 →
      exec .rsPop s = .next (s.answered { s.regs with cause := 4, badcmd := 0x1200 } true 0)) ∧
    (∀ k : Fin 10, s.regs.cnt.toNat = 16 + k →
      ∃ g : Regs, exec .rsPop s = .next (s.answered g false (s.regs.r[k].setWidth 32)) ∧
        g = { s.regs with cnt := g.cnt } ∧ g.cnt.toNat = s.regs.cnt.toNat + 1 ∧
        (g.rsDone = true ↔ s.regs.cnt.toNat = 25))

/-- R131: the generator polynomial is the product of its ten factors, vanishes at its ten roots, and is
167 at `alpha^10`. -/
def Obligations.GeneratorIsTheProductOfItsFactors : Prop :=
  genProduct 10 = gen.toList ∧ (∀ i < 10, polyEval gen.toList (alphaPow i) = 0) ∧
  polyEval gen.toList (alphaPow 10) = 167

/-- R135: after the bytes `d` have been pushed into a new frame, `R` is the remainder that the
document's division of R132 leaves; for 16 bytes that is `rs_ec`. -/
def Obligations.DividerComputesTheReferenceRemainder : Prop :=
  ∀ d : List Byte, (rsRemainder d).toList = divideBlock d

/-- R21: whatever happens at the ports, `R` stays the remainder of the bytes pushed in this frame, and
`CNT` their number until there are 16. -/
def Obligations.RemainderRegisterFollowsTheFrame : Prop :=
  ∀ (s t : State) (d : List Byte), FrameHolds d s.regs → step s = .next t →
    FrameHolds (pushedAfter s d) t.regs

/-- R139: a frame presented to a block outside the fault state, from any `CNT`: 27 steps, no error, and
the responses after the first are the 26-codeword stream. -/
def Obligations.FrameYieldsTheStream : Prop :=
  ∀ (s : State) (d : Vector Byte 16) (rest : List PortEvent), NoFault s →
    s.inbox = presented (expand (.rsEnc d.toList)) ++ rest →
    runSteps 27 s = .next ⟨{ s.regs with r := rsRemainder d.toList, cnt := 26 }, rest,
      s.rsps ++ ⟨false, 0⟩ :: (rsStream d).map fun c => ⟨false, c.setWidth 32⟩⟩

/-- R140 (a), (c): the EC codewords are linear in the data, and zero for zero data. -/
def Obligations.EcCodewordsAreLinear : Prop :=
  (∀ d e : Vector Byte 16,
    rsEc (Vector.zipWith (· ^^^ ·) d e) = List.zipWith (· ^^^ ·) (rsEc d) (rsEc e)) ∧
  (∀ (c : Byte) (d : Vector Byte 16), rsEc (d.map (gfMul c)) = (rsEc d).map (gfMul c)) ∧
  rsEc (Vector.replicate 16 0) = List.replicate 10 0

/-- R140 (b): the stream, read as a polynomial, vanishes at the ten roots of the generator. -/
def Obligations.StreamVanishesAtTheGeneratorsRoots : Prop :=
  ∀ (d : Vector Byte 16), ∀ i < 10, polyEval (rsStream d) (alphaPow i) = 0

/-! ### GF(256) (spec/40_gf256_arith.md) -/

/-- R102, R103, R131: the field's arithmetic written out: doubling reduces by `0x11D`, a product is the
XOR of the doublings of `a` that the bits of `b` pick; and the generator polynomial's coefficients. -/
def Obligations.FieldArithmeticIsWrittenOut : Prop :=
  (∀ a : Byte, xtime a =
    ((if a.getLsbD 7 then (a.setWidth 9 <<< 1) ^^^ 0x11D else a.setWidth 9 <<< 1 : BitVec 9)).setWidth 8) ∧
  (∀ a b : Byte, gfMul a b =
    [0, 1, 2, 3, 4, 5, 6, 7].foldl
      (fun (p : Byte) (i : Nat) => if b.getLsbD i then p ^^^ Nat.repeat xtime i a else p) 0) ∧
  gen.toList = [1, 216, 194, 159, 111, 199, 94, 95, 113, 157, 193]

/-- R104: the laws of the field's multiplication over its addition. -/
def Obligations.GfMultiplicationObeysTheFieldLaws : Prop :=
  (∀ a b : Byte, gfMul a b = gfMul b a) ∧
  (∀ a b c : Byte, gfMul (gfMul a b) c = gfMul a (gfMul b c)) ∧
  (∀ a b c : Byte, gfMul a (gfAdd b c) = gfAdd (gfMul a b) (gfMul a c)) ∧
  (∀ a : Byte, gfMul a 1 = a) ∧
  (∀ a b : Byte, a ≠ 0 → b ≠ 0 → gfMul a b ≠ 0)

/-- R104, R106: the powers `alpha^0` to `alpha^254` are the non-zero elements, each once; `LOG` finds the
power, and zero has none. -/
def Obligations.LogarithmInvertsThePowersOfAlpha : Prop :=
  (∀ a : Byte, a ≠ 0 → ∃ i < 255, alphaPow i = a ∧ gfLog a = some i ∧ expEntry i = a) ∧
  (∀ i < 255, gfLog (expEntry i) = some i) ∧ alphaPow 255 = 1 ∧ gfLog 0 = none

/-- R107: multiplying by the tables is multiplying. -/
def Obligations.TableMultiplicationAgrees : Prop := ∀ a b : Byte, gfMulTab a b = gfMul a b

/-- R142: a product is the XOR, over the set bits of the one operand, of the products of single bits
with the other. -/
def Obligations.ConstantMultipliersAreXorsOfColumns : Prop :=
  ∀ x g : Byte, gfMul x g =
    [0, 1, 2, 3, 4, 5, 6, 7].foldl
      (fun (acc : Byte) (i : Nat) => if x.getLsbD i then acc ^^^ gfMul (1 <<< i) g else acc) 0

/-! ### BCH (spec/42_bch.md) -/

/-- R163: `BCH.ENC` writes `FMT` and answers its new value. -/
def Obligations.BchEncWritesTheFormatWord : Prop :=
  ∀ (s : State) (d : BitVec 5), NoFault s →
    exec (.bchEnc d) s =
      .next (s.answered { s.regs with fmt := (d ++ bchRem d) ^^^ 0x5412 } false
        (((d ++ bchRem d) ^^^ 0x5412).setWidth 32))

/-- R164: `BCH.RD` answers `FMT` and changes no register. -/
def Obligations.BchRdAnswersTheFormatRegister : Prop :=
  ∀ s : State, NoFault s → exec .bchRd s = .next (s.answered s.regs false (s.regs.fmt.setWidth 32))

/-- R161, R166: the 32 remainders and the 32 format words. -/
def Obligations.FormatWordsAreTheListed : Prop :=
  (List.range 32).map (fun d => bchRem (BitVec.ofNat 5 d)) =
    [0x000, 0x137, 0x26E, 0x359, 0x1EB, 0x0DC, 0x385, 0x2B2] ++
    [0x3D6, 0x2E1, 0x1B8, 0x08F, 0x23D, 0x30A, 0x053, 0x164] ++
    [0x29B, 0x3AC, 0x0F5, 0x1C2, 0x370, 0x247, 0x11E, 0x029] ++
    [0x14D, 0x07A, 0x323, 0x214, 0x0A6, 0x191, 0x2C8, 0x3FF] ∧
  (List.range 32).map (fun d => fmtWord (BitVec.ofNat 5 d)) =
    [0x5412, 0x5125, 0x5E7C, 0x5B4B, 0x45F9, 0x40CE, 0x4F97, 0x4AA0] ++
    [0x77C4, 0x72F3, 0x7DAA, 0x789D, 0x662F, 0x6318, 0x6C41, 0x6976] ++
    [0x1689, 0x13BE, 0x1CE7, 0x19D0, 0x0762, 0x0255, 0x0D0C, 0x083B] ++
    [0x355F, 0x3068, 0x3F31, 0x3A06, 0x24B4, 0x2183, 0x2EDA, 0x2BED]

/-- R165: the data comes back when the mask is undone, the unmasked word is a codeword, the code is
linear, and no format word is zero or stands for two operands. -/
def Obligations.FormatWordsFormAMaskedLinearCode : Prop :=
  (∀ d : BitVec 5, (fmtWord d ^^^ 0x5412).extractLsb' 10 5 = d) ∧
  (∀ d : BitVec 5, bchReduce (fmtWord d ^^^ 0x5412) = 0) ∧
  (∀ d e : BitVec 5, fmtWord (d ^^^ e) ^^^ 0x5412 = (fmtWord d ^^^ 0x5412) ^^^ (fmtWord e ^^^ 0x5412)) ∧
  (∀ d : BitVec 5, d ≠ 0 →
    7 ≤ ((List.range 15).filter fun i => (fmtWord d ^^^ 0x5412).getLsbD i).length) ∧
  (∀ d : BitVec 5, fmtWord d ≠ 0) ∧
  (∀ d e : BitVec 5, fmtWord d = fmtWord e → d = e)

/-! ### CRC-32 (spec/43_crc32.md) -/

/-- R182: `CRC.INIT` loads the initial value. -/
def Obligations.CrcInitStartsAMessage : Prop :=
  ∀ s : State, NoFault s → exec .crcInit s = .next (s.answered { s.regs with crc := 0xFFFFFFFF } false 0)

/-- R183, with the byte step of R181 written out: the byte enters at bits 7:0, then eight rounds of one
shift each, with the polynomial XORed in where the bit shifted out is 1. -/
def Obligations.CrcByteStepsTheRegister : Prop :=
  (∀ (c : Word32) (b : Byte), crcStep c b =
    [0, 1, 2, 3, 4, 5, 6, 7].foldl
      (fun (c : Word32) (_ : Nat) => if c.getLsbD 0 then (c >>> 1) ^^^ 0xEDB88320 else c >>> 1)
      (c ^^^ b.setWidth 32)) ∧
  (∀ (s : State) (b : Byte), NoFault s →
    exec (.crcByte b) s = .next (s.answered { s.regs with crc := crcStep s.regs.crc b } false 0))

/-- R184: `CRC.RD` answers the complement and changes no register. -/
def Obligations.CrcRdAnswersTheComplement : Prop :=
  ∀ s : State, NoFault s → exec .crcRd s = .next (s.answered s.regs false (s.regs.crc ^^^ 0xFFFFFFFF))

/-- R181: the table-driven form of the step is the step. -/
def Obligations.CrcTableFormAgrees : Prop :=
  ∀ (c : Word32) (b : Byte), crcStep c b = crcStep 0 ((c ^^^ b.setWidth 32).setWidth 8) ^^^ (c >>> 8)

/-- R185: a message presented to a block outside the fault state, whatever `CRC` held, is answered
with its CRC-32. -/
def Obligations.CrcMessageYieldsItsChecksum : Prop :=
  ∀ (s : State) (message : List Byte) (rest : List PortEvent), NoFault s →
    s.inbox = presented (expand (.crcMsg message)) ++ rest →
    runSteps (message.length + 2) s =
      .next ⟨{ s.regs with crc := message.foldl crcStep 0xFFFFFFFF }, rest,
        s.rsps ++ List.replicate (message.length + 1) ⟨false, 0⟩ ++
          [⟨false, message.foldl crcStep 0xFFFFFFFF ^^^ 0xFFFFFFFF⟩]⟩

/-! ### Adler-32 (spec/44_adler32.md) -/

/-- R202: `ADL.INIT` loads the initial sums. -/
def Obligations.AdlInitStartsAMessage : Prop :=
  ∀ s : State, NoFault s → exec .adlInit s = .next (s.answered { s.regs with a := 1, b := 0 } false 0)

/-- R201, R203: `ADL.BYTE` adds the byte into `A` and the new `A` into `B`, each modulo 65521. -/
def Obligations.AdlByteAddsIntoBothSums : Prop :=
  ∀ (s : State) (x : Byte), NoFault s →
    ∃ g : Regs, exec (.adlByte x) s = .next (s.answered g false 0) ∧
      g = { s.regs with a := g.a, b := g.b } ∧
      g.a.toNat = (s.regs.a.toNat + x.toNat) % 65521 ∧
      g.b.toNat = (s.regs.b.toNat + g.a.toNat) % 65521

/-- R204: `ADL.RD` answers `{B, A}` and changes no register. -/
def Obligations.AdlRdAnswersBothSums : Prop :=
  ∀ s : State, NoFault s → ∃ v : Word32, exec .adlRd s = .next (s.answered s.regs false v) ∧
    v.toNat = s.regs.b.toNat * 65536 + s.regs.a.toNat

/-- R205: a message presented to a block outside the fault state, whatever `A` and `B` held, is
answered with its Adler-32. -/
def Obligations.AdlerMessageYieldsItsChecksum : Prop :=
  ∀ (s : State) (message : List Byte) (rest : List PortEvent), NoFault s →
    s.inbox = presented (expand (.adlMsg message)) ++ rest →
    ∃ a b : Word16, message.foldl adlerStep (1, 0) = (a, b) ∧
      runSteps (message.length + 2) s =
        .next ⟨{ s.regs with a := a, b := b }, rest,
          s.rsps ++ List.replicate (message.length + 1) ⟨false, 0⟩ ++ [⟨false, b ++ a⟩]⟩

/-- R205, the closed form: `A` is one more than the sum of the bytes, `B` the sum of the `A`s. -/
def Obligations.AdlerSumsHaveTheClosedForm : Prop :=
  ∀ message : List Byte,
    (message.foldl adlerStep (1, 0)).1.toNat = (1 + (message.map (·.toNat)).sum) % 65521 ∧
    (message.foldl adlerStep (1, 0)).2.toNat =
      (message.length +
        (message.zipIdx.map fun p => (message.length - p.2) * p.1.toNat).sum) % 65521

/-- R110: sums in range need at most one subtraction of the modulus, and stay in range. -/
def Obligations.AdlerReductionIsOneSubtraction : Prop :=
  ∀ (a b : Word16) (x : Byte), a.toNat ≤ 65520 → b.toNat ≤ 65520 →
    ∃ a' b', adlerStep (a, b) x = (a', b') ∧ a'.toNat ≤ 65520 ∧ b'.toNat ≤ 65520 ∧
      a'.toNat = (if a.toNat + x.toNat < 65521 then a.toNat + x.toNat
        else a.toNat + x.toNat - 65521) ∧
      b'.toNat = (if b.toNat + a'.toNat < 65521 then b.toNat + a'.toNat
        else b.toNat + a'.toNat - 65521)

/-! ### Faults (spec/60_exceptions.md) -/

/-- R241: which word raises which fault, from every state that meets the invariant of R34 (which keeps
`CNT` at 26 or below and `BADCMD` 0 while there is no fault), and what is recorded. -/
def Obligations.FaultsAreExactlyTheListed : Prop :=
  ∀ (s t : State) (w : Word16) (rest : List PortEvent),
    s.inbox = .command w :: rest → s.Inv → NoFault s → step s = .next t →
    (t.regs.cause = 1 ↔ ∀ i, decode w ≠ .ok i) ∧
    (t.regs.cause = 2 ↔ (∃ b : Byte, w = 0x1100 ||| b.setWidth 16) ∧ 16 ≤ s.regs.cnt.toNat) ∧
    (t.regs.cause = 3 ↔ w = 0x1200 ∧ s.regs.cnt.toNat < 16) ∧
    (t.regs.cause = 4 ↔ w = 0x1200 ∧ s.regs.cnt.toNat = 26) ∧
    t.regs.cause.toNat ≤ 4 ∧
    t.regs.badcmd = if t.regs.cause = 0 then 0 else w

/-- R244, R245: a fault is precise: `CAUSE` becomes one of 1 to 4 and `BADCMD` the word, the response is
`(1, 0)`, the `fault` output becomes 1, and every other register is as before. -/
def Obligations.FaultsArePrecise : Prop :=
  ∀ s t : State, NoFault s → step s = .next t → ¬ NoFault t →
    s.faultPin = false ∧ t.faultPin = true ∧
    1 ≤ t.regs.cause.toNat ∧ t.regs.cause.toNat ≤ 4 ∧
    ∃ w rest, s.inbox = .command w :: rest ∧
      t = ⟨{ s.regs with cause := t.regs.cause, badcmd := w }, rest, s.rsps ++ [⟨true, 0⟩]⟩

/-- R246: what the fault state makes of every word. -/
def Obligations.FaultStateRefusesAllButTwoWords : Prop :=
  ∀ (s : State) (w : Word16) (rest : List PortEvent),
    s.inbox = .command w :: rest → ¬ NoFault s →
    step s =
      if w = 0x0100 then .next ⟨State.reset.regs, rest, s.rsps ++ [⟨false, 0⟩]⟩
      else if w = 0x0200 then .next ⟨s.regs, rest, s.rsps ++ [⟨false, s.regs.status⟩]⟩
      else .next ⟨s.regs, rest, s.rsps ++ [⟨true, 0⟩]⟩

/-- R247, R249: nothing but the word `0x0100` and the pin changes a register in the fault state, and they
leave the reset state. -/
def Obligations.OnlyResetLeavesTheFaultState : Prop :=
  ∀ s t : State, ¬ NoFault s → step s = .next t →
    t.regs = s.regs ∨
    (t.regs = State.reset.regs ∧
      (s.inbox.head? = some (.command 0x0100) ∨ s.inbox.head? = some .rst))

/-- R241: the twelve commands other than `RS.PUSH` and `RS.POP` raise no fault, however many are
presented. -/
def Obligations.OnlyFrameCommandsRaiseFaults : Prop :=
  ∀ (commands : List Instr) (s : State) (rest : List PortEvent), NoFault s →
    (∀ i ∈ commands, (∀ b, i ≠ .rsPush b) ∧ i ≠ .rsPop) →
    s.inbox = presented commands ++ rest → SafeRun commands.length s

/-! ### The whole machine -/

/-- R77: one response to every command; an error exactly when the command faulted or was refused, then
with data 0; else the data of R77's table. -/
def Obligations.EveryCommandGetsItsResponse : Prop :=
  (∀ (i : Instr) (s : State), ∃ g err data, exec i s = .next (s.answered g err data) ∧
    (err = true ↔ g.cause ≠ 0 ∧ i ≠ .sysStat) ∧
    (err = true → data = 0) ∧ (err = false → data = responseData i s.regs)) ∧
  (∀ (w : Word16) (s : State) (rest : List PortEvent), s.inbox = .command w :: rest →
    (∀ i, decode w ≠ .ok i) → ∃ g, step s = .next ⟨g, rest, s.rsps ++ [⟨true, 0⟩]⟩)

/-- R20, R139: a command changes no register of another unit, except that a faulting `RS.PUSH` or
`RS.POP` writes `CAUSE` and `BADCMD`, and that `SYS.RESET` writes every register. -/
def Obligations.CommandsLeaveOtherUnitsAlone : Prop :=
  ∀ (i : Instr) (s t : State), i ≠ .sysReset → exec i s = .next t →
    t.inbox = s.inbox ∧ (∃ r, t.rsps = s.rsps ++ [r]) ∧
    (sameOutside i.unit s.regs t.regs ∨
      (NoFault s ∧ ((∃ b, i = .rsPush b) ∨ i = .rsPop) ∧
        t.regs = { s.regs with cause := t.regs.cause, badcmd := encode i }))

/-- R275: commands of different units may be interleaved freely: in either order they leave the same
registers, as long as neither faults. -/
def Obligations.CommandsOfDifferentUnitsCommute : Prop :=
  ∀ (i j : Instr) (s s₁ t₁ : State), i.unit ≠ .sys → j.unit ≠ .sys → i.unit ≠ j.unit →
    exec i s = .next s₁ → exec j s₁ = .next t₁ → NoFault t₁ →
    ∃ s₂ t₂ r₁ r₂, exec j s = .next s₂ ∧ exec i s₂ = .next t₂ ∧ t₂.regs = t₁.regs ∧
      t₁.rsps = s.rsps ++ [r₁, r₂] ∧ t₂.rsps = s.rsps ++ [r₂, r₁]

/-- R33, R60: registers and the words presented decide everything the block answers: two machines that
agree on them give the same responses and the same registers, whatever else stands at their ports. -/
def Obligations.NoHiddenStateDecidesAResponse : Prop :=
  ∀ (words : List Word16) (s s' : State) (rest rest' : List PortEvent), s.regs = s'.regs →
    s.inbox = words.map .command ++ rest → s'.inbox = words.map .command ++ rest' →
    ∃ g rs, rs.length = words.length ∧
      runSteps words.length s = .next ⟨g, rest, s.rsps ++ rs⟩ ∧
      runSteps words.length s' = .next ⟨g, rest', s'.rsps ++ rs⟩

/-- R58: the reading commands change no register and may be repeated; `BCH.ENC` is idempotent; two
`RS.POP` deliver two successive codewords. -/
def Obligations.ReadsMayBeRepeated : Prop :=
  (∀ i ∈ [Instr.bchRd, .crcRd, .adlRd, .sysStat], ∀ s : State, NoFault s →
    ∃ data, exec i s = .next (s.answered s.regs false data) ∧
      exec i (s.answered s.regs false data) = .next ((s.answered s.regs false data).answered s.regs false data)) ∧
  (∀ (d : BitVec 5) (s : State), NoFault s → ∃ g data, exec (.bchEnc d) s = .next (s.answered g false data) ∧
    exec (.bchEnc d) (s.answered g false data) = .next ((s.answered g false data).answered g false data)) ∧
  (∀ (s : State) (k : Nat) (h : k < 9), NoFault s → s.regs.cnt.toNat = 16 + k →
    ∃ g g', exec .rsPop s = .next (s.answered g false (s.regs.r[k].setWidth 32)) ∧
      exec .rsPop (s.answered g false (s.regs.r[k].setWidth 32)) =
        .next ((s.answered g false (s.regs.r[k].setWidth 32)).answered g' false (s.regs.r[k + 1].setWidth 32)))

/-- R34: the registers after reset meet the invariant. -/
def Obligations.InvariantHoldsAtReset : Prop := State.reset.Inv

/-- R34: every step keeps the invariant, from every state that meets it. -/
def Obligations.EveryStepKeepsTheInvariant : Prop :=
  ∀ s t : State, s.Inv → step s = .next t → t.Inv

/-- R34, clause by clause, in every state that any list of commands and resets reaches from reset; `d`
is the list of bytes pushed in the frame the state stands in, read off the run step by step. -/
def Obligations.ReachableStatesAreAsR34Says : Prop :=
  ∀ (events : List PortEvent) (n : Nat) (t : State) (d : List Byte),
    runSteps n { State.reset with inbox := events } = .next t →
    d = pushedDuring n { State.reset with inbox := events } [] →
    t.regs.cnt.toNat ≤ 26 ∧
    t.regs.a.toNat ≤ 65520 ∧ t.regs.b.toNat ≤ 65520 ∧
    (t.regs.fmt = 0 ∨ ∃ x, t.regs.fmt = fmtWord x) ∧
    t.regs.cause.toNat ≤ 4 ∧ (t.regs.cause = 0 ↔ t.regs.badcmd = 0) ∧
    FrameHolds d t.regs ∧
    (t.regs.cnt = 0 → ∀ j : Fin 10, t.regs.r[j] = 0) ∧
    (16 ≤ t.regs.cnt.toNat → ∃ v : Vector Byte 16, v.toList = d ∧ t.regs.r.toList = rsEc v)

/-- R248: the `fault` output is 1 exactly while `CAUSE` is not 0; it rises only with a command that is
answered `(1, 0)`, falls only with the word `0x0100` or the pin, and with neither a command nor the pin
no register changes. -/
def Obligations.FaultPinFollowsTheCause : Prop :=
  (∀ s : State, s.faultPin = true ↔ s.regs.cause ≠ 0) ∧
  (∀ s t : State, step s = .next t →
    (s.faultPin = false → t.faultPin = true →
      ∃ w rest, s.inbox = .command w :: rest ∧ t.rsps = s.rsps ++ [⟨true, 0⟩]) ∧
    (s.faultPin = true → t.faultPin = false →
      s.inbox.head? = some (.command 0x0100) ∨ s.inbox.head? = some .rst) ∧
    ((∀ w, s.inbox.head? ≠ some (.command w)) → s.inbox.head? ≠ some .rst → t.regs = s.regs))
end

