-- ==== Sys2Proof/Laws/Decode.lean ====
section
/-! SUPPORT. What the rows of the opcode map say about a word, and what performing a word is. -/

namespace Sys2Proof.Machine

/-- A format Z row looks at every bit. -/
theorem and_mask_Z (w : Word16) : w &&& 0xFFFF = w := by
  apply BitVec.eq_of_getLsbD_eq
  intro i hi
  interval_cases i <;> simp

/-- A word is what a format B row matches and its operand. -/
theorem mask_B_or_operand (w : Word16) : (w &&& 0xFF00) ||| (operandB w).setWidth 16 = w := by
  apply BitVec.eq_of_getLsbD_eq
  intro i hi
  interval_cases i <;> simp [operandB]

/-- A word is what a format F row matches and its operand. -/
theorem mask_F_or_operand (w : Word16) : (w &&& 0xFFE0) ||| (operandF w).setWidth 16 = w := by
  apply BitVec.eq_of_getLsbD_eq
  intro i hi
  interval_cases i <;> simp [operandF]

/-- Where decoding answers a command, a row of the map accepts the word and builds it. -/
theorem row_of_decode_ok {w : Word16} {i : Instr} (h : decode w = .ok i) :
    ∃ row ∈ opcodeTable, w &&& row.mask = row.pattern ∧ row.build w = i := by
  unfold decode at h
  split at h
  · next row hr =>
    have ha := List.find?_some hr
    simp only [OpcodeRow.accepts, beq_iff_eq] at ha
    exact ⟨row, List.mem_of_find?_eq_some hr, ha, by simpa using h⟩
  · cases h

/-- Where no row accepts a word, decoding answers its reason. -/
theorem decode_eq_error {w : Word16} (h : ∀ row ∈ opcodeTable, w &&& row.mask ≠ row.pattern) :
    decode w = .error (illegalReason w) := by
  have hn : opcodeTable.find? (·.accepts w) = none := by
    rw [List.find?_eq_none]
    intro row hrow
    simpa [OpcodeRow.accepts] using h row hrow
  unfold decode
  rw [hn]

/-- A legal word performs its command. -/
theorem performWord_of_ok {w : Word16} {i : Instr} (h : decode w = .ok i) (s : State) :
    performWord w s = exec i s := by
  simp only [performWord, h]

/-- An illegal word performs the illegal-word fault. -/
theorem performWord_of_error {w : Word16} {e : IllegalReason} (h : decode w = .error e) (s : State) :
    performWord w s = performIllegal w s := by
  simp only [performWord, h]

end Sys2Proof.Machine
end

