-- ==== Sys2Proof/Laws/State.lean ====
section
/-! SUPPORT. What each update of the state does to each field, by `rfl`: later proofs cite these (simp
does) and unfold no update. A state has three fields; the `regs` lemma of an update is the whole record. -/

namespace Sys2Proof.Machine

@[simp] theorem State.setFrame_regs (s : State) (r : Vector Byte 10) (cnt : BitVec 5) :
    (s.setFrame r cnt).regs = { s.regs with r := r, cnt := cnt } := rfl

@[simp] theorem State.setFrame_inbox (s : State) (r : Vector Byte 10) (cnt : BitVec 5) :
    (s.setFrame r cnt).inbox = s.inbox := rfl

@[simp] theorem State.setFrame_rsps (s : State) (r : Vector Byte 10) (cnt : BitVec 5) :
    (s.setFrame r cnt).rsps = s.rsps := rfl

@[simp] theorem State.setCnt_regs (s : State) (cnt : BitVec 5) :
    (s.setCnt cnt).regs = { s.regs with cnt := cnt } := rfl

@[simp] theorem State.setCnt_inbox (s : State) (cnt : BitVec 5) :
    (s.setCnt cnt).inbox = s.inbox := rfl

@[simp] theorem State.setCnt_rsps (s : State) (cnt : BitVec 5) :
    (s.setCnt cnt).rsps = s.rsps := rfl

@[simp] theorem State.setFmt_regs (s : State) (fmt : BitVec 15) :
    (s.setFmt fmt).regs = { s.regs with fmt := fmt } := rfl

@[simp] theorem State.setFmt_inbox (s : State) (fmt : BitVec 15) :
    (s.setFmt fmt).inbox = s.inbox := rfl

@[simp] theorem State.setFmt_rsps (s : State) (fmt : BitVec 15) :
    (s.setFmt fmt).rsps = s.rsps := rfl

@[simp] theorem State.setCrc_regs (s : State) (crc : Word32) :
    (s.setCrc crc).regs = { s.regs with crc := crc } := rfl

@[simp] theorem State.setCrc_inbox (s : State) (crc : Word32) :
    (s.setCrc crc).inbox = s.inbox := rfl

@[simp] theorem State.setCrc_rsps (s : State) (crc : Word32) :
    (s.setCrc crc).rsps = s.rsps := rfl

@[simp] theorem State.setAdler_regs (s : State) (a b : Word16) :
    (s.setAdler a b).regs = { s.regs with a := a, b := b } := rfl

@[simp] theorem State.setAdler_inbox (s : State) (a b : Word16) :
    (s.setAdler a b).inbox = s.inbox := rfl

@[simp] theorem State.setAdler_rsps (s : State) (a b : Word16) :
    (s.setAdler a b).rsps = s.rsps := rfl

@[simp] theorem State.setFault_regs (s : State) (cause : BitVec 4) (badcmd : Word16) :
    (s.setFault cause badcmd).regs = { s.regs with cause := cause, badcmd := badcmd } := rfl

@[simp] theorem State.setFault_inbox (s : State) (cause : BitVec 4) (badcmd : Word16) :
    (s.setFault cause badcmd).inbox = s.inbox := rfl

@[simp] theorem State.setFault_rsps (s : State) (cause : BitVec 4) (badcmd : Word16) :
    (s.setFault cause badcmd).rsps = s.rsps := rfl

@[simp] theorem State.resetRegs_regs (s : State) :
    (s.resetRegs).regs = Regs.reset := rfl

@[simp] theorem State.resetRegs_inbox (s : State) :
    (s.resetRegs).inbox = s.inbox := rfl

@[simp] theorem State.resetRegs_rsps (s : State) :
    (s.resetRegs).rsps = s.rsps := rfl

@[simp] theorem State.setInbox_regs (s : State) (inbox : List PortEvent) :
    (s.setInbox inbox).regs = s.regs := rfl

@[simp] theorem State.setInbox_inbox (s : State) (inbox : List PortEvent) :
    (s.setInbox inbox).inbox = inbox := rfl

@[simp] theorem State.setInbox_rsps (s : State) (inbox : List PortEvent) :
    (s.setInbox inbox).rsps = s.rsps := rfl

@[simp] theorem State.setRsps_regs (s : State) (rsps : List Response) :
    (s.setRsps rsps).regs = s.regs := rfl

@[simp] theorem State.setRsps_inbox (s : State) (rsps : List Response) :
    (s.setRsps rsps).inbox = s.inbox := rfl

@[simp] theorem State.setRsps_rsps (s : State) (rsps : List Response) :
    (s.setRsps rsps).rsps = rsps := rfl

@[simp] theorem respond_regs (err : Bool) (data : Word32) (s : State) :
    (respond err data s).regs = s.regs := rfl

@[simp] theorem respond_inbox (err : Bool) (data : Word32) (s : State) :
    (respond err data s).inbox = s.inbox := rfl

@[simp] theorem respond_rsps (err : Bool) (data : Word32) (s : State) :
    (respond err data s).rsps = s.rsps ++ [⟨err, data⟩] := rfl

@[simp] theorem raiseFault_regs (c : Cause) (cmd : Word16) (s : State) :
    (raiseFault c cmd s).regs = { s.regs with cause := c.code, badcmd := cmd } := rfl

@[simp] theorem raiseFault_inbox (c : Cause) (cmd : Word16) (s : State) :
    (raiseFault c cmd s).inbox = s.inbox := rfl

@[simp] theorem raiseFault_rsps (c : Cause) (cmd : Word16) (s : State) :
    (raiseFault c cmd s).rsps = s.rsps ++ [⟨true, 0⟩] := rfl

@[simp] theorem resetByPin_regs (s : State) :
    (resetByPin s).regs = Regs.reset := rfl

@[simp] theorem resetByPin_inbox (s : State) :
    (resetByPin s).inbox = s.inbox := rfl

@[simp] theorem resetByPin_rsps (s : State) :
    (resetByPin s).rsps = [] := rfl

@[simp] theorem takeResponse_regs (s : State) :
    (takeResponse s).regs = s.regs := rfl

@[simp] theorem takeResponse_inbox (s : State) :
    (takeResponse s).inbox = s.inbox := rfl

@[simp] theorem takeResponse_rsps (s : State) :
    (takeResponse s).rsps = s.rsps.tail := rfl

@[simp] theorem offerNext_regs (w : Word16) (s : State) :
    (offerNext w s).regs = s.regs := rfl

@[simp] theorem offerNext_inbox (w : Word16) (s : State) :
    (offerNext w s).inbox = .command w :: s.inbox := rfl

@[simp] theorem offerNext_rsps (w : Word16) (s : State) :
    (offerNext w s).rsps = s.rsps := rfl

@[simp] theorem State.answered_regs (s : State) (g : Regs) (err : Bool) (data : Word32) :
    (State.answered s g err data).regs = g := rfl

@[simp] theorem State.answered_inbox (s : State) (g : Regs) (err : Bool) (data : Word32) :
    (State.answered s g err data).inbox = s.inbox := rfl

@[simp] theorem State.answered_rsps (s : State) (g : Regs) (err : Bool) (data : Word32) :
    (State.answered s g err data).rsps = s.rsps ++ [⟨err, data⟩] := rfl

/-- Two states with the same three fields are the same state. -/
theorem State.eq_of_fields {s t : State} (hr : s.regs = t.regs) (hi : s.inbox = t.inbox)
    (hp : s.rsps = t.rsps) : s = t := by
  cases s; cases t; simp_all

/-- A response given after registers are written is the state `answered` names. -/
theorem respond_eq_answered (err : Bool) (data : Word32) (s : State) :
    respond err data s = s.answered s.regs err data := rfl

end Sys2Proof.Machine
end

