-- ==== Sys2Proof/Laws/Ops.lean ====
section
/-! SUPPORT. One lemma for each shared operation that says everything it can do; the meanings' proofs
cite these and unfold no operation. -/

namespace Sys2Proof.Machine

/-- Outside the fault state the check lets the command through. -/
theorem whenNoFault_of_noFault {s : State} (h : NoFault s) (perform : State → Result) :
    whenNoFault s perform = perform s := if_pos h

/-- In the fault state the check answers `(1, 0)` and changes nothing. -/
theorem whenNoFault_of_fault {s : State} (h : ¬ NoFault s) (perform : State → Result) :
    whenNoFault s perform = .next (s.answered s.regs true 0) := if_neg h

/-- Everything the fault-state check can answer. -/
theorem whenNoFault_next {s t : State} {perform : State → Result}
    (h : whenNoFault s perform = .next t) :
    (NoFault s ∧ perform s = .next t) ∨ (¬ NoFault s ∧ t = s.answered s.regs true 0) := by
  by_cases hs : NoFault s
  · exact .inl ⟨hs, (whenNoFault_of_noFault hs perform).symm.trans h⟩
  · have := (whenNoFault_of_fault hs perform).symm.trans h
    exact .inr ⟨hs, by simpa [eq_comm] using this⟩

/-- If what is guarded answers one response and leaves the ports alone, so does the check. -/
theorem whenNoFault_answers {s : State} {perform : State → Result}
    (h : NoFault s → ∃ g err data, perform s = .next (s.answered g err data)) :
    ∃ g err data, whenNoFault s perform = .next (s.answered g err data) := by
  by_cases hs : NoFault s
  · obtain ⟨g, err, data, hp⟩ := h hs
    exact ⟨g, err, data, (whenNoFault_of_noFault hs perform).trans hp⟩
  · exact ⟨_, _, _, whenNoFault_of_fault hs perform⟩

/-- Fault entry, as one state: `CAUSE` and `BADCMD` written and `(1, 0)` answered. -/
theorem raiseFault_eq_answered (c : Cause) (cmd : Word16) (s : State) :
    raiseFault c cmd s =
      s.answered { s.regs with cause := c.code, badcmd := cmd } true 0 := rfl

/-- The code of a cause is 1 to 4: a raised fault is seen by the fault-state check. -/
theorem Cause.code_ne_zero (c : Cause) : c.code ≠ 0 := by cases c <;> decide

/-- Everything an illegal word does. -/
theorem performIllegal_eq (w : Word16) (s : State) :
    performIllegal w s = .next (if NoFault s then raiseFault .illegal w s
      else s.answered s.regs true 0) := by
  by_cases hs : NoFault s
  · simp only [performIllegal, whenNoFault_of_noFault hs, if_pos hs]
  · simp only [performIllegal, whenNoFault_of_fault hs, if_neg hs]

end Sys2Proof.Machine
end

