-- ==== Sys2Proof/Laws/Exec.lean ====
section
/-! SUPPORT. What every command's meaning can do, said once: it answers exactly one response, at the end
of those on offer, and does not touch what is still to happen at the ports. -/

namespace Sys2Proof.Machine

/-- The shape of every meaning's answer. -/
theorem exec_answers (i : Instr) (s : State) :
    ∃ g err data, exec i s = .next (s.answered g err data) := by
  cases i with
  | sysReset => exact ⟨_, _, _, rfl⟩
  | sysStat => exact ⟨_, _, _, rfl⟩
  | rsPush b =>
    simp only [exec, execRsPush]
    refine whenNoFault_answers fun _ => ?_
    split
    · exact ⟨_, _, _, rfl⟩
    · exact ⟨_, _, _, rfl⟩
  | rsPop =>
    simp only [exec, execRsPop]
    refine whenNoFault_answers fun _ => ?_
    split
    · exact ⟨_, _, _, rfl⟩
    · split
      · exact ⟨_, _, _, rfl⟩
      · exact ⟨_, _, _, rfl⟩
  | sysNop =>
    simp only [exec, execSysNop]
    exact whenNoFault_answers fun _ => ⟨_, _, _, rfl⟩
  | rsInit =>
    simp only [exec, execRsInit]
    exact whenNoFault_answers fun _ => ⟨_, _, _, rfl⟩
  | bchEnc d =>
    simp only [exec, execBchEnc]
    exact whenNoFault_answers fun _ => ⟨_, _, _, rfl⟩
  | bchRd =>
    simp only [exec, execBchRd]
    exact whenNoFault_answers fun _ => ⟨_, _, _, rfl⟩
  | crcInit =>
    simp only [exec, execCrcInit]
    exact whenNoFault_answers fun _ => ⟨_, _, _, rfl⟩
  | crcByte b =>
    simp only [exec, execCrcByte]
    exact whenNoFault_answers fun _ => ⟨_, _, _, rfl⟩
  | crcRd =>
    simp only [exec, execCrcRd]
    exact whenNoFault_answers fun _ => ⟨_, _, _, rfl⟩
  | adlInit =>
    simp only [exec, execAdlInit]
    exact whenNoFault_answers fun _ => ⟨_, _, _, rfl⟩
  | adlByte b =>
    simp only [exec, execAdlByte]
    exact whenNoFault_answers fun _ => ⟨_, _, _, rfl⟩
  | adlRd =>
    simp only [exec, execAdlRd]
    exact whenNoFault_answers fun _ => ⟨_, _, _, rfl⟩

/-- A performed word answers one response too, whether it is a command or not. -/
theorem performWord_answers (w : Word16) (s : State) :
    ∃ g err data, performWord w s = .next (s.answered g err data) := by
  unfold performWord
  split
  · exact exec_answers _ s
  · rw [performIllegal_eq]
    split
    · exact ⟨_, _, _, rfl⟩
    · exact ⟨_, _, _, rfl⟩

/-- What a step does with the first event at the ports. -/
theorem step_of_event {s : State} {e : PortEvent} {rest : List PortEvent} (h : s.inbox = e :: rest) :
    step s = performEvent e (s.setInbox rest) := by
  simp only [step, stepPorts, h]

/-- Steps compose. -/
theorem runSteps_succ_of_step {s t : State} (h : step s = .next t) (n : Nat) :
    runSteps (n + 1) s = runSteps n t := by
  simp only [runSteps, h]

/-- Before the first step nothing has been pushed but `d`. -/
@[simp] theorem pushedDuring_zero (s : State) (d : List Byte) : pushedDuring 0 s d = d := rfl

/-- What is pushed in a run is what is pushed in its first step, and then in the rest of it. -/
theorem pushedDuring_succ_of_step {s t : State} (h : step s = .next t) (n : Nat) (d : List Byte) :
    pushedDuring (n + 1) s d = pushedDuring n t (pushedAfter s d) := by
  simp only [pushedDuring, h]

end Sys2Proof.Machine
end

