-- ==== Sys2Proof/Laws/Gf256.lean ====
section
/-! SUPPORT. The small laws of the field operations that proofs about the divider start from. -/

namespace Sys2Proof.Machine

/-- `xtime` as R102's second form: a shift, and the reduction when bit 7 was set. -/
theorem xtime_eq (a : Byte) :
    xtime a = (a <<< 1) ^^^ (if a.getLsbD 7 then 0x1D else 0) := rfl

/-- `xtime` is additive. -/
theorem xtime_xor (a b : Byte) : xtime (a ^^^ b) = xtime a ^^^ xtime b := by
  simp only [xtime_eq, BitVec.getLsbD_xor]
  cases a.getLsbD 7 <;> cases b.getLsbD 7 <;>
    (apply BitVec.eq_of_getLsbD_eq; intro i hi; interval_cases i <;> simp)

/-- Zero stays zero. -/
@[simp] theorem xtime_zero : xtime 0 = 0 := by decide

/-- The bit-serial product, written out: one term for each bit of the second operand. -/
theorem gfMul_eq (a b : Byte) :
    gfMul a b =
      (if b.getLsbD 0 then a else 0) ^^^ (if b.getLsbD 1 then xtime a else 0) ^^^
      (if b.getLsbD 2 then xtime (xtime a) else 0) ^^^
      (if b.getLsbD 3 then xtime (xtime (xtime a)) else 0) ^^^
      (if b.getLsbD 4 then xtime (xtime (xtime (xtime a))) else 0) ^^^
      (if b.getLsbD 5 then xtime (xtime (xtime (xtime (xtime a)))) else 0) ^^^
      (if b.getLsbD 6 then xtime (xtime (xtime (xtime (xtime (xtime a))))) else 0) ^^^
      (if b.getLsbD 7 then xtime (xtime (xtime (xtime (xtime (xtime (xtime a)))))) else 0) := by
  have round (c : Bool) (p x : Byte) : (if c then p ^^^ x else p) = p ^^^ (if c then x else 0) := by
    cases c <;> simp
  have start (x : Byte) : 0 ^^^ x = x := BitVec.zero_xor
  simp only [gfMul, List.foldl, gfMulRound, round, start]

end Sys2Proof.Machine
end

