-- ==== Sys2Proof/Laws/PerInstr.lean ====
section
/-! SUPPORT. Statements about every command, one lemma a constructor. -/

namespace Sys2Proof.Laws

/-- The fields of the word that encodes a command are the command's fields, and they are well-formed:
the column "encoding" of spec/30_encoding.md R73 agrees with the fields of R71 and the checks of R75. -/
abbrev EncodedFields.Statement (i : Instr) : Prop :=
  fieldsOf (encode i) = i.fields ∧ i.wellFormed = true

theorem EncodedFields.sysNop : EncodedFields.Statement .sysNop := by decide
theorem EncodedFields.sysReset : EncodedFields.Statement .sysReset := by decide
theorem EncodedFields.sysStat : EncodedFields.Statement .sysStat := by decide
theorem EncodedFields.rsInit : EncodedFields.Statement .rsInit := by decide
theorem EncodedFields.rsPush : ∀ b, EncodedFields.Statement (.rsPush b) := by decide +kernel
theorem EncodedFields.rsPop : EncodedFields.Statement .rsPop := by decide
theorem EncodedFields.bchEnc : ∀ d, EncodedFields.Statement (.bchEnc d) := by decide +kernel
theorem EncodedFields.bchRd : EncodedFields.Statement .bchRd := by decide
theorem EncodedFields.crcInit : EncodedFields.Statement .crcInit := by decide
theorem EncodedFields.crcByte : ∀ b, EncodedFields.Statement (.crcByte b) := by decide +kernel
theorem EncodedFields.crcRd : EncodedFields.Statement .crcRd := by decide
theorem EncodedFields.adlInit : EncodedFields.Statement .adlInit := by decide
theorem EncodedFields.adlByte : ∀ b, EncodedFields.Statement (.adlByte b) := by decide +kernel
theorem EncodedFields.adlRd : EncodedFields.Statement .adlRd := by decide

end Sys2Proof.Laws
end

