-- ==== Sys2Proof/Tests/Slice0.lean ====
section
/-! SUPPORT. Tests, each on fixed values from the spec (the source is named before each group), and a
witness for the hypotheses of every statement that has some. -/

namespace Sys2Proof.Tests

open Sys2Proof.Machine

/-- A machine with these registers, nothing to happen at its ports and no response on offer. -/
def idle (g : Regs) : State := ⟨g, [], []⟩

/-- A machine outside the fault state whose frame stands at `cnt`, with distinct bytes in `R`. -/
def atCnt (cnt : BitVec 5) : State :=
  idle { Regs.reset with r := #v[1, 2, 3, 4, 5, 6, 7, 8, 9, 10], cnt := cnt, fmt := 0x40CE, crc := 7, a := 8, b := 9 }

/-- A machine in the fault state: an underrun at the start of a frame. -/
def faulty : State := idle { Regs.reset with cause := 3, badcmd := 0x1200 }

/-- The machine about to accept a word. -/
def offered (w : Word16) (s : State) : State := s.withFetchWord 16 w.toNat

/-- The registers an answer leaves. -/
def regsOf : Result → Option Regs
  | .next t => some t.regs
  | _ => none

/-- The last response an answer leaves on offer. -/
def answerOf : Result → Option Response
  | .next t => t.rsps.getLast?
  | _ => none

/-! ### Well-formedness: an ill-formed term for each check (spec/30_encoding.md R71, R75, R79) -/

theorem test_wellFormed_refuses_missing_unit : CommandFields.wellFormed ⟨5, 0, 0⟩ = false := by decide
theorem test_wellFormed_refuses_missing_function : CommandFields.wellFormed ⟨1, 3, 0⟩ = false := by decide
theorem test_wellFormed_refuses_operand_of_Z : CommandFields.wellFormed ⟨1, 2, 1⟩ = false := by decide
theorem test_wellFormed_refuses_sixth_bit_of_F : CommandFields.wellFormed ⟨2, 0, 0x20⟩ = false := by decide
theorem test_wellFormed_accepts_largest_F : CommandFields.wellFormed ⟨2, 0, 0x1F⟩ = true := by decide
theorem test_wellFormed_refuses_15_bytes :
    Pseudo.wellFormed (.rsEnc (List.replicate 15 0)) = false := by decide
theorem test_wellFormed_refuses_level_4 : Pseudo.wellFormed (.fmtEnc 4 0) = false := by decide
theorem test_wellFormed_refuses_mask_8 : Pseudo.wellFormed (.fmtEnc 0 8) = false := by decide

/-! ### Decoding: words written out from the column "encoding" of spec/30_encoding.md R73, and illegal
words of spec/95_test_vectors.md section 2.5 -/

theorem test_decode_sysNop : decode 0b0000000000000000 = .ok .sysNop := rfl
theorem test_decode_sysReset : decode 0b0000000100000000 = .ok .sysReset := rfl
theorem test_decode_sysStat : decode 0b0000001000000000 = .ok .sysStat := rfl
theorem test_decode_rsInit : decode 0b0001000000000000 = .ok .rsInit := rfl
theorem test_decode_rsPush : decode 0b0001000111100001 = .ok (.rsPush 0b11100001) := rfl
theorem test_decode_rsPop : decode 0b0001001000000000 = .ok .rsPop := rfl
theorem test_decode_bchEnc : decode 0b0010000000010110 = .ok (.bchEnc 0b10110) := rfl
theorem test_decode_bchRd : decode 0b0010000100000000 = .ok .bchRd := rfl
theorem test_decode_crcInit : decode 0b0011000000000000 = .ok .crcInit := rfl
theorem test_decode_crcByte : decode 0b0011000110000010 = .ok (.crcByte 0b10000010) := rfl
theorem test_decode_crcRd : decode 0b0011001000000000 = .ok .crcRd := rfl
theorem test_decode_adlInit : decode 0b0100000000000000 = .ok .adlInit := rfl
theorem test_decode_adlByte : decode 0b0100000101010111 = .ok (.adlByte 0b01010111) := rfl
theorem test_decode_adlRd : decode 0b0100001000000000 = .ok .adlRd := rfl
theorem test_decode_0101 : decode 0x0101 = .error .operandNotZero := rfl
theorem test_decode_0F00 : decode 0x0F00 = .error .noSuchFunction := rfl
theorem test_decode_2020 : decode 0x2020 = .error .formatDataTooWide := rfl
theorem test_decode_5000 : decode 0x5000 = .error .noSuchUnit := rfl
theorem test_decodeTableWord : decodeTableWord 16 0x11FF = some (.rsPush 0xFF) := rfl
theorem test_decodeTableWord_too_long : decodeTableWord 32 0x11FF = none := rfl

/-! ### Field arithmetic (spec/40_gf256_arith.md R102, R103, R105, R106; spec/95_test_vectors.md 2.0) -/

theorem test_xtime_reduces : xtime 0xFF = 0xE3 := by decide
theorem test_gfMul_53_CA : gfMul 0x53 0xCA = 0x8F := by decide
theorem test_gfMul_FF_FF : gfMul 0xFF 0xFF = 0xE2 := by decide
theorem test_gfMulTab_40_D8 : gfMulTab 0x40 0xD8 = 0x04 := by decide +kernel
theorem test_gfLog_zero : gfLog 0 = none := by decide +kernel

/-- The table as R105 prints it, 16 entries a row. -/
def printedExp : List Byte :=
    [1, 2, 4, 8, 16, 32, 64, 128, 29, 58, 116, 232, 205, 135, 19, 38] ++
    [76, 152, 45, 90, 180, 117, 234, 201, 143, 3, 6, 12, 24, 48, 96, 192] ++
    [157, 39, 78, 156, 37, 74, 148, 53, 106, 212, 181, 119, 238, 193, 159, 35] ++
    [70, 140, 5, 10, 20, 40, 80, 160, 93, 186, 105, 210, 185, 111, 222, 161] ++
    [95, 190, 97, 194, 153, 47, 94, 188, 101, 202, 137, 15, 30, 60, 120, 240] ++
    [253, 231, 211, 187, 107, 214, 177, 127, 254, 225, 223, 163, 91, 182, 113, 226] ++
    [217, 175, 67, 134, 17, 34, 68, 136, 13, 26, 52, 104, 208, 189, 103, 206] ++
    [129, 31, 62, 124, 248, 237, 199, 147, 59, 118, 236, 197, 151, 51, 102, 204] ++
    [133, 23, 46, 92, 184, 109, 218, 169, 79, 158, 33, 66, 132, 21, 42, 84] ++
    [168, 77, 154, 41, 82, 164, 85, 170, 73, 146, 57, 114, 228, 213, 183, 115] ++
    [230, 209, 191, 99, 198, 145, 63, 126, 252, 229, 215, 179, 123, 246, 241, 255] ++
    [227, 219, 171, 75, 150, 49, 98, 196, 149, 55, 110, 220, 165, 87, 174, 65] ++
    [130, 25, 50, 100, 200, 141, 7, 14, 28, 56, 112, 224, 221, 167, 83, 166] ++
    [81, 162, 89, 178, 121, 242, 249, 239, 195, 155, 43, 86, 172, 69, 138, 9] ++
    [18, 36, 72, 144, 61, 122, 244, 245, 247, 243, 251, 235, 203, 139, 11, 22] ++
    [44, 88, 176, 125, 250, 233, 207, 131, 27, 54, 108, 216, 173, 71, 142, 1] ++
    [2, 4, 8, 16, 32, 64, 128, 29, 58, 116, 232, 205, 135, 19, 38, 76] ++
    [152, 45, 90, 180, 117, 234, 201, 143, 3, 6, 12, 24, 48, 96, 192, 157] ++
    [39, 78, 156, 37, 74, 148, 53, 106, 212, 181, 119, 238, 193, 159, 35, 70] ++
    [140, 5, 10, 20, 40, 80, 160, 93, 186, 105, 210, 185, 111, 222, 161, 95] ++
    [190, 97, 194, 153, 47, 94, 188, 101, 202, 137, 15, 30, 60, 120, 240, 253] ++
    [231, 211, 187, 107, 214, 177, 127, 254, 225, 223, 163, 91, 182, 113, 226, 217] ++
    [175, 67, 134, 17, 34, 68, 136, 13, 26, 52, 104, 208, 189, 103, 206, 129] ++
    [31, 62, 124, 248, 237, 199, 147, 59, 118, 236, 197, 151, 51, 102, 204, 133] ++
    [23, 46, 92, 184, 109, 218, 169, 79, 158, 33, 66, 132, 21, 42, 84, 168] ++
    [77, 154, 41, 82, 164, 85, 170, 73, 146, 57, 114, 228, 213, 183, 115, 230] ++
    [209, 191, 99, 198, 145, 63, 126, 252, 229, 215, 179, 123, 246, 241, 255, 227] ++
    [219, 171, 75, 150, 49, 98, 196, 149, 55, 110, 220, 165, 87, 174, 65, 130] ++
    [25, 50, 100, 200, 141, 7, 14, 28, 56, 112, 224, 221, 167, 83, 166, 81] ++
    [162, 89, 178, 121, 242, 249, 239, 195, 155, 43, 86, 172, 69, 138, 9, 18] ++
    [36, 72, 144, 61, 122, 244, 245, 247, 243, 251, 235, 203, 139, 11, 22, 44] ++
    [88, 176, 125, 250, 233, 207, 131, 27, 54, 108, 216, 173, 71, 142, 1, 2]

/-- The table as R106 prints it, from `LOG[1]`. -/
def printedLog : List Nat :=
    [0, 1, 25, 2, 50, 26, 198, 3, 223, 51, 238, 27, 104, 199, 75] ++
    [4, 100, 224, 14, 52, 141, 239, 129, 28, 193, 105, 248, 200, 8, 76, 113] ++
    [5, 138, 101, 47, 225, 36, 15, 33, 53, 147, 142, 218, 240, 18, 130, 69] ++
    [29, 181, 194, 125, 106, 39, 249, 185, 201, 154, 9, 120, 77, 228, 114, 166] ++
    [6, 191, 139, 98, 102, 221, 48, 253, 226, 152, 37, 179, 16, 145, 34, 136] ++
    [54, 208, 148, 206, 143, 150, 219, 189, 241, 210, 19, 92, 131, 56, 70, 64] ++
    [30, 66, 182, 163, 195, 72, 126, 110, 107, 58, 40, 84, 250, 133, 186, 61] ++
    [202, 94, 155, 159, 10, 21, 121, 43, 78, 212, 229, 172, 115, 243, 167, 87] ++
    [7, 112, 192, 247, 140, 128, 99, 13, 103, 74, 222, 237, 49, 197, 254, 24] ++
    [227, 165, 153, 119, 38, 184, 180, 124, 17, 68, 146, 217, 35, 32, 137, 46] ++
    [55, 63, 209, 91, 149, 188, 207, 205, 144, 135, 151, 178, 220, 252, 190, 97] ++
    [242, 86, 211, 171, 20, 42, 93, 158, 132, 60, 57, 83, 71, 109, 65, 162] ++
    [31, 45, 67, 216, 183, 123, 164, 118, 196, 23, 73, 236, 127, 12, 111, 246] ++
    [108, 161, 59, 82, 41, 157, 85, 170, 251, 96, 134, 177, 187, 204, 62, 90] ++
    [203, 89, 95, 176, 156, 169, 160, 81, 11, 245, 22, 235, 122, 117, 44, 215] ++
    [79, 174, 213, 233, 230, 231, 173, 232, 116, 214, 244, 234, 168, 80, 88, 175]

theorem test_expTable : expTable = printedExp := by decide +kernel
theorem test_logTable :
    (List.range 255).map (fun n => gfLog (BitVec.ofNat 8 (n + 1))) = printedLog.map some := by
  decide +kernel

/-! ### The divider (spec/41_rs.md R131, R137; spec/95_test_vectors.md 2.1, V1, V8, V13) -/

theorem test_genProduct_partial : genProduct 4 = [1, 15, 54, 120, 64] := by decide
/-- V13: the published example. -/
theorem test_rsRemainder_V13 :
    rsRemainder [0x20, 0x5B, 0x0B, 0x78, 0xD1, 0x72, 0xDC, 0x4D, 0x43, 0x40, 0xEC, 0x11, 0xEC, 0x11, 0xEC, 0x11] =
      #v[0xC4, 0x23, 0x27, 0x77, 0xEB, 0xD7, 0xE7, 0xE2, 0x5D, 0x17] := by decide +kernel
theorem test_rsEc_V1 :
    rsEc #v[0x40, 0x54, 0x84, 0x54, 0xC4, 0xC4, 0xF0, 0xEC, 0x11, 0xEC, 0x11, 0xEC, 0x11, 0xEC, 0x11, 0xEC] =
      [0x23, 0x73, 0x23, 0x99, 0xEC, 0x08, 0xC9, 0xF7, 0x37, 0xDF] := by decide +kernel
theorem test_rsEc_V8 :
    rsEc #v[1, 0, 0, 0, 0, 0, 0, 0, 0, 0, 0, 0, 0, 0, 0, 0] =
      [0xFB, 0x49, 0xB8, 0x7B, 0xDE, 0x86, 0xEE, 0x38, 0x02, 0xFC] := by decide +kernel

/-! ### The other units' functions (spec/95_test_vectors.md 2.2 to 2.4) -/

theorem test_bchRem_31 : bchRem 31 = 0x3FF := by decide
theorem test_fmtWord_21 : fmtWord 21 = 0x0255 := by decide
theorem test_formatData : formatData 0b10 0b011 = 19 := by decide
theorem test_crc32_V45 : crc32 [0x31, 0x32, 0x33, 0x34, 0x35, 0x36, 0x37, 0x38, 0x39] = 0xCBF43926 := by
  decide +kernel
theorem test_crcStep_80 : crcStep 0 0x80 = 0xEDB88320 := by decide +kernel
/-- V70: `"Wikipedia"`. -/
theorem test_adler32_V70 : adler32 [0x57, 0x69, 0x6B, 0x69, 0x70, 0x65, 0x64, 0x69, 0x61] = 0x11E60398 := by
  decide +kernel
theorem test_adlerStep_passes_modulus : adlerStep (65520, 65520) 255 = (254, 253) := by decide

/-! ### Assembly (spec/30_encoding.md R78, R79; spec/95_test_vectors.md section 3) -/

theorem test_assemble_listing_line : assemble "BCH.ENC 0b00101  ; -> 0,000040CE".toList = some (.bchEnc 5) := by
  decide
theorem test_assemble_character : assemble "RS.PUSH 'H'".toList = some (.rsPush 0x48) := by decide
theorem test_assemble_too_big : assemble "CRC.BYTE 256".toList = none := by decide
theorem test_expand_rsEnc_length : (expand (.rsEnc (List.replicate 16 0))).length = 27 := by decide
theorem test_expand_fmtEnc : expand (.fmtEnc 3 2) = [.bchEnc 26] := by decide

/-! ### One step of each command (sources: the examples in spec/41_rs.md to spec/45_sys.md and the rows
of spec/95_test_vectors.md named) -/

/-- R220. -/
theorem test_step_sysNop : step (offered 0x0000 State.reset) = .next ⟨Regs.reset, [], [⟨false, 0⟩]⟩ := rfl
/-- R221: in the fault state. -/
theorem test_step_sysReset : step (offered 0x0100 faulty) = .next ⟨Regs.reset, [], [⟨false, 0⟩]⟩ := rfl
/-- V23: after an eleventh `RS.POP`. -/
theorem test_step_sysStat :
    answerOf (step (offered 0x0200 (idle { Regs.reset with cnt := 26, cause := 4, badcmd := 0x1200 }))) =
      some ⟨false, 0x120007A4⟩ := by decide +kernel
/-- V21. -/
theorem test_step_sysStat_full :
    answerOf (step (offered 0x0200 (atCnt 19))) = some ⟨false, 0x00000330⟩ := by decide +kernel
/-- R136: in the middle of a frame. -/
theorem test_step_rsInit :
    (regsOf (step (offered 0x1000 (atCnt 9)))).map (fun g => (g.r, g.cnt)) = some (zeroRemainder, 0) := by
  decide +kernel
/-- R137, the first row of V1's trace. -/
theorem test_step_rsPush :
    (regsOf (step (offered 0x1140 State.reset))).map (fun g => (g.r, g.cnt)) =
      some (#v[0x04, 0xCA, 0x14, 0xC2, 0x97, 0x1E, 0x5E, 0x11, 0x94, 0x0A], 1) := by decide +kernel
/-- V26, V27: an overrun records the whole word. -/
theorem test_step_rsPush_overrun :
    (regsOf (step (offered 0x11AA (atCnt 17)))).map (fun g => (g.cnt, g.cause, g.badcmd)) =
      some (17, 2, 0x11AA) := by decide +kernel
/-- R138: the last pop delivers `R[9]`. -/
theorem test_step_rsPop_last : answerOf (step (offered 0x1200 (atCnt 25))) = some ⟨false, 10⟩ := by
  decide +kernel
/-- V25: one push short. -/
theorem test_step_rsPop_underrun :
    (regsOf (step (offered 0x1200 (atCnt 15)))).map (fun g => (g.cnt, g.cause, g.badcmd)) =
      some (15, 3, 0x1200) := by decide +kernel
/-- R163. -/
theorem test_step_bchEnc :
    (regsOf (step (offered 0x2005 State.reset))).map (·.fmt) = some 0x40CE := by decide +kernel
/-- R164. -/
theorem test_step_bchRd : answerOf (step (offered 0x2100 (atCnt 0))) = some ⟨false, 0x40CE⟩ := by
  decide +kernel
/-- R182. -/
theorem test_step_crcInit : (regsOf (step (offered 0x3000 (atCnt 0)))).map (·.crc) = some 0xFFFFFFFF := by
  decide +kernel
/-- R183. -/
theorem test_step_crcByte :
    (regsOf (step (offered 0x3149 State.reset))).map (·.crc) = some 0x22FDE946 := by decide +kernel
/-- R184: the register after "IEND". -/
theorem test_step_crcRd :
    answerOf (step (offered 0x3200 (idle { Regs.reset with crc := 0x51BD9F7D }))) =
      some ⟨false, 0xAE426082⟩ := by decide +kernel
/-- R202. -/
theorem test_step_adlInit :
    (regsOf (step (offered 0x4000 (atCnt 0)))).map (fun g => (g.a, g.b)) = some (1, 0) := by decide +kernel
/-- R203. -/
theorem test_step_adlByte :
    (regsOf (step (offered 0x4157 State.reset))).map (fun g => (g.a, g.b)) = some (88, 88) := by
  decide +kernel
/-- R204: the sums after "Wikipedia". -/
theorem test_step_adlRd :
    answerOf (step (offered 0x4200 (idle { Regs.reset with a := 920, b := 4582 }))) =
      some ⟨false, 0x11E60398⟩ := by decide +kernel

/-! ### Faults and the ports (spec/95_test_vectors.md 2.5; spec/70_reset_and_hazards.md R271, R272) -/

/-- `0x1201`: decoding comes before the sequence check. -/
theorem test_step_illegal :
    (regsOf (step (offered 0x1201 State.reset))).map (fun g => (g.cause, g.badcmd)) = some (1, 0x1201) := by
  decide +kernel
/-- Steps 2 and 4 of the fault-state table: refused, and nothing is recorded. -/
theorem test_step_refused_illegal : step (offered 0xFFFF faulty) = .next ⟨faulty.regs, [], [⟨true, 0⟩]⟩ := rfl
theorem test_step_refused_crcByte : step (offered 0x3149 faulty) = .next ⟨faulty.regs, [], [⟨true, 0⟩]⟩ := rfl
theorem test_step_rst : step ⟨faulty.regs, [.rst], [⟨true, 0⟩]⟩ = .next State.reset := rfl
theorem test_step_take :
    step ⟨Regs.reset, [.take], [⟨false, 1⟩, ⟨false, 2⟩]⟩ = .next ⟨Regs.reset, [], [⟨false, 2⟩]⟩ := rfl
theorem test_faultPin : faulty.faultPin = true ∧ State.reset.faultPin = false := by decide
theorem test_ports : (offered 0x1140 State.reset).offeredCommand = some 0x1140 ∧
    State.reset.offeredResponse = none := by decide +kernel

/-! ### Witnesses: for each statement with hypotheses, and each of its clauses, a state and operands that
meet all of them together. A witness for `NoFault` and for `¬ NoFault` serves every statement that asks
no more. -/

/-- SysNopOnlyAnswers, SysStatAnswersTheStatusWord, RsInitStartsAFrame, BchEncWritesTheFormatWord,
BchRdAnswersTheFormatRegister, CrcInitStartsAMessage, CrcByteStepsTheRegister, CrcRdAnswersTheComplement,
AdlInitStartsAMessage, AdlByteAddsIntoBothSums, AdlRdAnswersBothSums, ReadsMayBeRepeated. -/
theorem witness_noFault : NoFault (atCnt 25) := by decide
/-- The clauses of the same statements about the fault state, and OnlyResetLeavesTheFaultState. -/
theorem witness_fault : ¬ NoFault faulty := by decide
theorem witness_BothResetSources : (⟨faulty.regs, [.rst], []⟩ : State).inbox = .rst :: [] := rfl
theorem witness_InitCommands : Instr.crcInit ∈ [Instr.rsInit, .crcInit, .adlInit] ∧
    (offered 0x3000 State.reset).regs = State.reset.regs := ⟨by decide, rfl⟩
theorem witness_StepPerforms : (offered 0x11FF faulty).inbox = .command 0x11FF :: [] ∧
    decode 0x11FF = .ok (.rsPush 0xFF) := ⟨rfl, rfl⟩
theorem witness_IdleStep : State.reset.inbox = [] := rfl
theorem witness_Taking : (⟨Regs.reset, [.take], [⟨true, 0⟩]⟩ : State).inbox = .take :: [] ∧
    (⟨Regs.reset, [.take], [⟨true, 0⟩]⟩ : State).rsps = ⟨true, 0⟩ :: [] := ⟨rfl, rfl⟩
theorem witness_Taking_none : (⟨Regs.reset, [.take], []⟩ : State).inbox = .take :: [] ∧
    (⟨Regs.reset, [.take], []⟩ : State).rsps = [] := ⟨rfl, rfl⟩
theorem witness_IllegalWords : (offered 0x20FF State.reset).inbox = .command 0x20FF :: [] ∧
    NoFault (offered 0x20FF State.reset) ∧ ∀ row ∈ opcodeTable, (0x20FF : Word16) &&& row.mask ≠ row.pattern :=
  ⟨rfl, rfl, by decide⟩
/-- The ends of R75's ranges where two reasons meet. -/
theorem witness_IllegalWords_reasons :
    [0x4FFF, 0x5000, 0x02FF, 0x0300, 0x201F, 0x2020, 0x20FF, 0x2100, 0x2101, 0x21FF, 0x2200].map
      (fun n => match decode (BitVec.ofNat 16 n) with | .error e => some e | .ok _ => none) =
    [some .noSuchFunction, some .noSuchUnit, some .operandNotZero, some .noSuchFunction, none,
      some .formatDataTooWide, some .formatDataTooWide, none, some .operandNotZero, some .operandNotZero,
      some .noSuchFunction] := by decide +kernel
theorem witness_EncodeInvertsDecode : decode 0x201F = .ok (.bchEnc 31) := rfl
theorem witness_DividerStep : (8 : Nat) < 9 := by decide
theorem witness_RsPush_takes : NoFault (atCnt 15) ∧ (atCnt 15).regs.cnt.toNat < 16 := by decide
theorem witness_RsPush_overruns : NoFault (atCnt 16) ∧ 16 ≤ (atCnt 16).regs.cnt.toNat := by decide
theorem witness_RsPop_underruns : NoFault (atCnt 15) ∧ (atCnt 15).regs.cnt.toNat < 16 := by decide
theorem witness_RsPop_exhausted : NoFault (atCnt 26) ∧ (atCnt 26).regs.cnt.toNat = 26 := by decide
theorem witness_RsPop_first : NoFault (atCnt 16) ∧ (atCnt 16).regs.cnt.toNat = 16 + (0 : Fin 10) := by decide
theorem witness_RsPop_last : NoFault (atCnt 25) ∧ (atCnt 25).regs.cnt.toNat = 16 + (9 : Fin 10) := by decide
theorem witness_ReadsMayBeRepeated_pop :
    (8 : Nat) < 9 ∧ NoFault (atCnt 24) ∧ (atCnt 24).regs.cnt.toNat = 16 + 8 := by decide

/-- The registers after one push of `0x40` from reset. -/
def onePush : Regs := { Regs.reset with r := rsStep zeroRemainder 0x40, cnt := 1 }

theorem onePush_holds : FrameHolds [0x40] onePush := ⟨by decide, by decide, rfl⟩

theorem onePush_inv : (offered 0x1200 (idle onePush)).Inv :=
  ⟨⟨_, onePush_holds⟩, by decide, by decide, .inl rfl, by decide, by decide⟩

/-- RemainderRegisterFollowsTheFrame, EveryStepKeepsTheInvariant, and FaultsAreExactlyTheListed in its
clause for cause 3: a pop after one push. -/
theorem witness_Invariant : (offered 0x1200 (idle onePush)).inbox = .command 0x1200 :: [] ∧
    (offered 0x1200 (idle onePush)).Inv ∧ NoFault (offered 0x1200 (idle onePush)) ∧
    ∃ t, step (offered 0x1200 (idle onePush)) = .next t ∧ t.regs.cause = 3 :=
  ⟨rfl, onePush_inv, rfl, _, rfl, rfl⟩

/-- FaultsAreExactlyTheListed in its clauses for causes 2 and 4, and 0: full and finished frames of
zeros meet the invariant. -/
theorem zeroFrame_inv (cnt : BitVec 5) (h : 16 ≤ cnt.toNat ∧ cnt.toNat ≤ 26) :
    (idle { Regs.reset with cnt := cnt }).Inv :=
  have zeros : zeroRemainder = rsRemainder (List.replicate 16 0) := by decide +kernel
  ⟨⟨List.replicate 16 0, h.2, by simp [idle, h.1], zeros⟩,
    by simp [idle, Regs.reset], by simp [idle, Regs.reset], .inl rfl, by simp [idle, Regs.reset],
    by simp [idle, Regs.reset]⟩
theorem witness_Faults_overrun : (idle { Regs.reset with cnt := 16 }).Inv ∧
    NoFault (idle { Regs.reset with cnt := 16 }) ∧
    ∃ t, step (offered 0x11AA (idle { Regs.reset with cnt := 16 })) = .next t ∧ t.regs.cause = 2 :=
  ⟨zeroFrame_inv 16 (by decide), rfl, _, rfl, by decide +kernel⟩
theorem witness_Faults_exhausted : (idle { Regs.reset with cnt := 26 }).Inv ∧
    NoFault (idle { Regs.reset with cnt := 26 }) ∧
    ∃ t, step (offered 0x1200 (idle { Regs.reset with cnt := 26 })) = .next t ∧ t.regs.cause = 4 :=
  ⟨zeroFrame_inv 26 (by decide), rfl, _, rfl, by decide +kernel⟩
theorem witness_Faults_none : (idle { Regs.reset with cnt := 25 }).Inv ∧
    NoFault (idle { Regs.reset with cnt := 25 }) ∧
    ∃ t, step (offered 0x1200 (idle { Regs.reset with cnt := 25 })) = .next t ∧ t.regs.cause = 0 :=
  ⟨zeroFrame_inv 25 (by decide), rfl, _, rfl, by decide +kernel⟩
/-- FaultsAreExactlyTheListed for cause 1, and FaultsArePrecise. -/
theorem witness_Faults_illegal : (offered 0x3300 (idle onePush)).Inv ∧ NoFault (offered 0x3300 (idle onePush)) ∧
    ∃ t, step (offered 0x3300 (idle onePush)) = .next t ∧ t.regs.cause = 1 ∧ ¬ NoFault t :=
  ⟨onePush_inv, rfl, _, rfl, by decide +kernel, by decide +kernel⟩
theorem witness_FaultState_words : ¬ NoFault (offered 0x0100 faulty) ∧ ¬ NoFault (offered 0x0200 faulty) ∧
    ¬ NoFault (offered 0x0001 faulty) := by decide
theorem witness_OnlyFrameCommands : NoFault (idle Regs.reset) ∧
    (∀ i ∈ [Instr.rsInit, .bchEnc 31], (∀ b, i ≠ .rsPush b) ∧ i ≠ .rsPop) ∧
    (⟨Regs.reset, [.command 0x1000, .command 0x201F], []⟩ : State).inbox =
      presented [.rsInit, .bchEnc 31] ++ [] := ⟨rfl, by simp, rfl⟩
theorem witness_Frame : NoFault (atCnt 26) ∧
    ({ atCnt 26 with inbox := presented (expand (.rsEnc (Vector.replicate 16 0).toList)) ++ [.take] } : State).inbox =
      presented (expand (.rsEnc (Vector.replicate 16 (0 : Byte)).toList)) ++ [.take] := ⟨rfl, rfl⟩
theorem witness_CrcMessage : NoFault (atCnt 0) ∧
    (⟨(atCnt 0).regs, [.command 0x3000, .command 0x3149, .command 0x3200], []⟩ : State).inbox =
      presented (expand (.crcMsg [0x49])) ++ [] := ⟨rfl, rfl⟩
theorem witness_AdlerMessage : NoFault (atCnt 0) ∧
    (⟨(atCnt 0).regs, [.command 0x4000, .command 0x4149, .command 0x4200], []⟩ : State).inbox =
      presented (expand (.adlMsg [0x49])) ++ [] := ⟨rfl, rfl⟩
theorem witness_Stream : (9 : Nat) < 10 := by decide
theorem witness_FieldLaws : (0x53 : Byte) ≠ 0 ∧ (0xCA : Byte) ≠ 0 ∧ (254 : Nat) < 255 := by decide
theorem witness_FormatWords : (1 : BitVec 5) ≠ 0 ∧ fmtWord 7 = fmtWord 7 := by decide
theorem witness_AdlerReduction : (65520 : Word16).toNat ≤ 65520 := by decide
theorem witness_LeaveOtherUnits : Instr.crcByte 1 ≠ .sysReset ∧
    exec (.crcByte 1) (atCnt 3) = .next ((atCnt 3).answered { (atCnt 3).regs with crc := crcStep 7 1 } false 0) :=
  ⟨by decide, rfl⟩
/-- The clause for a faulting command. -/
theorem witness_LeaveOtherUnits_fault : Instr.rsPop ≠ .sysReset ∧
    exec .rsPop (atCnt 26) =
      .next ((atCnt 26).answered { (atCnt 26).regs with cause := 4, badcmd := 0x1200 } true 0) :=
  ⟨by decide, rfl⟩
theorem witness_Commute : Instr.unit (.adlByte 2) ≠ .sys ∧ Instr.unit (.rsPush 1) ≠ .sys ∧
    Instr.unit (.rsPush 1) ≠ Instr.unit (.adlByte 2) ∧
    ∃ s₁ t₁, exec (.rsPush 1) (atCnt 15) = .next s₁ ∧ exec (.adlByte 2) s₁ = .next t₁ ∧ NoFault t₁ :=
  ⟨by decide, by decide, by decide, _, _, rfl, rfl, rfl⟩
theorem witness_NoHiddenState : (⟨Regs.reset, [.command 0x1200, .rst], []⟩ : State).regs =
      (⟨Regs.reset, [.command 0x1200], [⟨false, 9⟩]⟩ : State).regs ∧
    (⟨Regs.reset, [.command 0x1200, .rst], []⟩ : State).inbox = [0x1200].map .command ++ [.rst] ∧
    (⟨Regs.reset, [.command 0x1200], [⟨false, 9⟩]⟩ : State).inbox = [0x1200].map .command ++ [] := ⟨rfl, rfl, rfl⟩
/-- A host that pushes `0x11`, starts a frame and pushes `0x40` 16 times. -/
def presentsFrame (s : State) : State :=
  { s with inbox := .command 0x1111 :: .command 0x1000 :: List.replicate 16 (.command 0x1140) }
theorem witness_Reachable : ∃ t, runSteps 2 { State.reset with inbox := [.command 0x1140, .command 0x1200] } = .next t ∧
    t.regs.cnt = 1 ∧ t.regs.cause = 3 := ⟨_, rfl, by decide +kernel, by decide +kernel⟩
/-- The last clause: a full frame, with the bytes pushed in it read off the run; the bytes pushed before
`RS.INIT` are not among them. -/
theorem witness_Reachable_full : ∃ t,
    runSteps 18 (presentsFrame State.reset) = .next t ∧ t.regs.cnt = 16 ∧
    List.replicate 16 0x40 = pushedDuring 18 (presentsFrame State.reset) [] :=
  ⟨_, rfl, by decide +kernel, by decide +kernel⟩
/-- FaultPinFollowsTheCause: the pin rises, falls, and stays. -/
theorem witness_FaultPin_rises : ∃ t, step (offered 0x1200 State.reset) = .next t ∧
    (offered 0x1200 State.reset).faultPin = false ∧ t.faultPin = true :=
  ⟨_, rfl, by decide +kernel, by decide +kernel⟩
theorem witness_FaultPin_falls : ∃ t, step (offered 0x0100 faulty) = .next t ∧
    (offered 0x0100 faulty).faultPin = true ∧ t.faultPin = false :=
  ⟨_, rfl, by decide +kernel, by decide +kernel⟩
theorem witness_FaultPin_stays : (∀ w, [PortEvent.take].head? ≠ some (.command w)) ∧
    [PortEvent.take].head? ≠ some .rst ∧ step ⟨faulty.regs, [.take], []⟩ = .next ⟨faulty.regs, [], []⟩ :=
  ⟨fun _ => nofun, by decide, rfl⟩
theorem witness_ResponseToIllegal : (offered 0x8000 faulty).inbox = .command 0x8000 :: [] ∧
    ∀ i, decode 0x8000 ≠ .ok i := ⟨rfl, fun _ h => nomatch h⟩

end Sys2Proof.Tests
end

section
/-! PROOF. The fields of the `STATUS` word, from the lowest bit up (spec/10_state.md R27). The word is a
concatenation: a field is found by skipping the parts below it and keeping the part it lies in. -/

namespace Sys2Proof.Machine

@[simp] theorem Regs.rsFull_eq_true_iff (g : Regs) : g.rsFull = true ↔ 16 ≤ g.cnt.toNat :=
  decide_eq_true_iff

@[simp] theorem Regs.rsDone_eq_true_iff (g : Regs) : g.rsDone = true ↔ g.cnt.toNat = 26 :=
  decide_eq_true_iff

@[simp] theorem Regs.status_extract_cause (g : Regs) : g.status.extractLsb' 0 4 = g.cause := by
  rw [Regs.status, BitVec.extractLsb'_append_eq_of_add_le (by decide), BitVec.extractLsb'_eq_self]

@[simp] theorem Regs.status_extract_cnt (g : Regs) : g.status.extractLsb' 4 5 = g.cnt := by
  rw [Regs.status, BitVec.extractLsb'_append_eq_of_le (by decide),
    BitVec.extractLsb'_append_eq_of_add_le (by decide), BitVec.extractLsb'_eq_self]

theorem Regs.status_bit_rsFull (g : Regs) : g.status.getLsbD 9 = g.rsFull := by
  simp only [Regs.status, BitVec.getLsbD_append]
  simp

theorem Regs.status_bit_rsDone (g : Regs) : g.status.getLsbD 10 = g.rsDone := by
  simp only [Regs.status, BitVec.getLsbD_append]
  simp

@[simp] theorem Regs.status_extract_reserved (g : Regs) : g.status.extractLsb' 11 5 = 0 := by
  unfold Regs.status
  iterate 4 rw [BitVec.extractLsb'_append_eq_of_le (by decide)]
  rw [BitVec.extractLsb'_append_eq_of_add_le (by decide)]
  exact BitVec.extractLsb'_eq_self

@[simp] theorem Regs.status_extract_badcmd (g : Regs) : g.status.extractLsb' 16 16 = g.badcmd := by
  unfold Regs.status
  iterate 5 rw [BitVec.extractLsb'_append_eq_of_le (by decide)]
  rw [BitVec.extractLsb'_eq_self]

end Sys2Proof.Machine

namespace Sys2Proof

open Sys2Proof.Machine

/-- Settles O16: each clause is the lemma of its field, and the two flags are what R29 says of `CNT`. -/
theorem statusWordHasTheStatedFields : Obligations.StatusWordHasTheStatedFields := by
  intro g
  refine ⟨g.status_extract_cause, g.status_extract_cnt, ?full, ?done,
    g.status_extract_reserved, g.status_extract_badcmd⟩
  case full => rw [g.status_bit_rsFull, g.rsFull_eq_true_iff]
  case done => rw [g.status_bit_rsDone, g.rsDone_eq_true_iff]

end Sys2Proof
end

section
/-! PROOF. The decoder reads a word by the rows of the opcode map (spec/30_encoding.md R73). No word
meets two rows, so the first row that accepts a word is the only one; and the words of a row are an
interval, from its match up to the word with every operand bit set. -/

namespace Sys2Proof

open Sys2Proof.Machine

theorem OpcodeRow.accepts_iff (row : OpcodeRow) (w : Word16) :
    row.accepts w = true ↔ w &&& row.mask = row.pattern := beq_iff_eq

/-- Two rows of the map differ on a bit that both of them look at. -/
theorem opcodeTable_disjoint :
    opcodeTable.Pairwise fun row row' => row.pattern &&& row'.mask ≠ row'.pattern &&& row.mask := by
  decide

theorem row_unique {w : Word16} {row row' : OpcodeRow} (hr : row ∈ opcodeTable)
    (hr' : row' ∈ opcodeTable) (h : w &&& row.mask = row.pattern)
    (h' : w &&& row'.mask = row'.pattern) : row = row' := by
  by_contra hne
  have : Std.Symm fun row row' : OpcodeRow =>
      row.pattern &&& row'.mask ≠ row'.pattern &&& row.mask := ⟨fun _ _ => Ne.symm⟩
  refine opcodeTable_disjoint.forall hr hr' hne ?_
  calc row.pattern &&& row'.mask
      = w &&& row.mask &&& row'.mask := by rw [h]
    _ = w &&& row'.mask &&& row.mask := by ac_rfl
    _ = row'.pattern &&& row.mask := by rw [h']

/-- A word that meets a row's mask and match is decoded by that row, wherever it stands in the map. -/
theorem decode_of_row {w : Word16} {row : OpcodeRow} (hr : row ∈ opcodeTable)
    (h : w &&& row.mask = row.pattern) : decode w = .ok (row.build w) := by
  have hs : (opcodeTable.find? (·.accepts w)).isSome :=
    List.find?_isSome.2 ⟨row, hr, (row.accepts_iff w).2 h⟩
  obtain ⟨row', hf⟩ := Option.isSome_iff_exists.1 hs
  have ha := List.find?_some hf
  have heq := row_unique hr (List.mem_of_find?_eq_some hf) h ((row'.accepts_iff w).1 ha)
  simp only [decode, hf, heq]

theorem decode_eq_ok_iff {w : Word16} {i : Instr} :
    decode w = .ok i ↔ ∃ row ∈ opcodeTable, w &&& row.mask = row.pattern ∧ i = row.build w := by
  constructor
  · intro h
    obtain ⟨row, hr, ha, hb⟩ := row_of_decode_ok h
    exact ⟨row, hr, ha, hb.symm⟩
  · rintro ⟨row, hr, ha, rfl⟩
    exact decode_of_row hr ha

/-- To mask out the low `k` bits is to round down to a multiple of `2 ^ k`. -/
theorem and_highMask_toNat (w : Word16) (k : Nat) :
    (w &&& BitVec.allOnes 16 <<< k).toNat = w.toNat / 2 ^ k * 2 ^ k := by
  rw [← BitVec.shiftLeft_ushiftRight, BitVec.toNat_shiftLeft, BitVec.toNat_ushiftRight,
    Nat.shiftRight_eq_div_pow, Nat.shiftLeft_eq]
  exact Nat.mod_eq_of_lt ((Nat.div_mul_le_self _ _).trans_lt w.isLt)

/-- The highest word of a row: its operand bits, those outside the mask, are all set. -/
def OpcodeRow.last (row : OpcodeRow) : Word16 := row.pattern ||| ~~~row.mask

/-- A row's operand is its low `k` bits, and its match has none of them set. -/
theorem opcodeTable_operandBits : ∀ row ∈ opcodeTable, ∃ k ∈ [0, 5, 8],
    row.mask = BitVec.allOnes 16 <<< k ∧ row.pattern.toNat / 2 ^ k * 2 ^ k = row.pattern.toNat ∧
      row.last.toNat = row.pattern.toNat + 2 ^ k - 1 := by
  decide

theorem row_accepts_iff_interval {row : OpcodeRow} (hr : row ∈ opcodeTable) (w : Word16) :
    w &&& row.mask = row.pattern ↔
      row.pattern.toNat ≤ w.toNat ∧ w.toNat ≤ row.last.toNat := by
  obtain ⟨k, -, hmask, hpat, hlast⟩ := opcodeTable_operandBits row hr
  have hk : 0 < 2 ^ k := Nat.two_pow_pos k
  rw [← BitVec.toNat_inj, hmask, and_highMask_toNat, hlast, ← hpat, Nat.mul_left_inj hk.ne',
    Nat.div_eq_iff hk]

theorem exists_decode_ok_iff_interval (w : Word16) :
    (∃ i, decode w = .ok i) ↔
      ∃ row ∈ opcodeTable, row.pattern.toNat ≤ w.toNat ∧ w.toNat ≤ row.last.toNat := by
  constructor
  · rintro ⟨i, hi⟩
    obtain ⟨row, hr, ha, -⟩ := row_of_decode_ok hi
    exact ⟨row, hr, (row_accepts_iff_interval hr w).1 ha⟩
  · rintro ⟨row, hr, hin⟩
    exact ⟨_, decode_of_row hr ((row_accepts_iff_interval hr w).2 hin)⟩

/-- The legal words by number: the ten words without operand, and the ranges of the four commands
with one (R73). -/
def IsLegalNumber (n : Nat) : Prop :=
  n ∈ [0x0000, 0x0100, 0x0200, 0x1000, 0x1200, 0x2100, 0x3000, 0x3200, 0x4000, 0x4200] ∨
  (0x1100 ≤ n ∧ n ≤ 0x11FF) ∨ (0x2000 ≤ n ∧ n ≤ 0x201F) ∨
  (0x3100 ≤ n ∧ n ≤ 0x31FF) ∨ (0x4100 ≤ n ∧ n ≤ 0x41FF)

theorem exists_decode_ok_iff_isLegalNumber (w : Word16) :
    (∃ i, decode w = .ok i) ↔ IsLegalNumber w.toNat := by
  rw [exists_decode_ok_iff_interval]
  simp [opcodeTable, OpcodeRow.last, IsLegalNumber]
  omega

/-- Settles O9: a row's clause singles the row out by the command it builds; the legal words are the
rows' intervals. -/
theorem wordsDecodeByMaskAndMatch : Obligations.WordsDecodeByMaskAndMatch := by
  intro w
  refine ⟨?_, ?_, ?_, ?_, ?_, ?_, ?_, ?_, ?_, ?_, ?_, ?_, ?_, ?_,
    exists_decode_ok_iff_isLegalNumber w⟩ <;>
  simp [decode_eq_ok_iff, opcodeTable, operandB, operandF]

end Sys2Proof
end

section
/-! PROOF. The illegal words: the reason of each by its number (spec/30_encoding.md R75), and what a step
with one does. -/

namespace Sys2Proof

open Sys2Proof.Machine

theorem decode_eq_error_iff {w : Word16} {e : IllegalReason} :
    decode w = .error e ↔ (¬ ∃ i, decode w = .ok i) ∧ illegalReason w = e := by
  unfold decode
  cases opcodeTable.find? (·.accepts w) <;> simp

theorem formatOf_eq_none_iff (unit fn : BitVec 4) :
    formatOf unit fn = none ↔ 4 < unit.toNat ∨ 2 < fn.toNat ∨ unit.toNat = 2 ∧ fn.toNat = 2 := by
  unfold formatOf
  split <;> grind

theorem formatOf_eq_F_iff (unit fn : BitVec 4) :
    formatOf unit fn = some .F ↔ unit.toNat = 2 ∧ fn.toNat = 0 := by
  unfold formatOf
  split <;> grind

theorem fieldsOf_unit_toNat (w : Word16) : (fieldsOf w).unit.toNat = w.toNat / 0x1000 := by
  simp [fieldsOf, Nat.shiftRight_eq_div_pow]
  omega

theorem fieldsOf_fn_toNat (w : Word16) : (fieldsOf w).fn.toNat = w.toNat / 0x100 % 0x10 := by
  simp [fieldsOf, Nat.shiftRight_eq_div_pow]

/-- The reason as a chain of tests on the format that the unit and function number name. -/
theorem illegalReason_eq (w : Word16) : illegalReason w =
    if 4 < (fieldsOf w).unit.toNat then .noSuchUnit
    else if formatOf (fieldsOf w).unit (fieldsOf w).fn = none then .noSuchFunction
    else if formatOf (fieldsOf w).unit (fieldsOf w).fn = some .F then .formatDataTooWide
    else .operandNotZero := by
  rcases h : formatOf (fieldsOf w).unit (fieldsOf w).fn with _ | _ | _ | _ <;>
    simp [illegalReason, h]

theorem step_of_illegal {s : State} {w : Word16} {rest : List PortEvent} {e : IllegalReason}
    (h : s.inbox = .command w :: rest) (hd : decode w = .error e) :
    step s = performIllegal w (s.setInbox rest) :=
  (step_of_event h).trans (performWord_of_error hd _)

theorem performIllegal_of_noFault {s : State} (h : NoFault s) (w : Word16) :
    performIllegal w s = .next (raiseFault .illegal w s) := whenNoFault_of_noFault h _

/-- Settles O10: which words each reason takes is arithmetic on the word's number; a word that meets no
row raises the fault of an illegal word. -/
theorem illegalWordsAreTheListedAndFault : Obligations.IllegalWordsAreTheListedAndFault := by
  constructor
  · intro w
    simp only [decode_eq_error_iff, exists_decode_ok_iff_isLegalNumber, IsLegalNumber,
      illegalReason_eq, formatOf_eq_none_iff, formatOf_eq_F_iff, fieldsOf_unit_toNat,
      fieldsOf_fn_toNat]
    refine ⟨?noSuchUnit, ?noSuchFunction, ?operandNotZero, ?formatDataTooWide⟩
    all_goals split_ifs <;> simp <;> omega
  · intro s w rest hin hs hrows
    rw [step_of_illegal hin (decode_eq_error hrows)]
    exact performIllegal_of_noFault (s := s.setInbox rest) hs w

end Sys2Proof
end

section
/-! PROOF. One response to every command (spec/30_encoding.md R77): a command answers by the table when it
is performed, and `(1, 0)` when it is refused or raises a fault. -/

namespace Sys2Proof.Machine

/-- The result is a next state with one more response, the one that R77 gives command `i` in `s`. -/
def AnswersByTable (i : Instr) (s : State) (result : Result) : Prop :=
  ∃ g err data, result = .next (s.answered g err data) ∧
    (err = true ↔ g.cause ≠ 0 ∧ i ≠ .sysStat) ∧
    (err = true → data = 0) ∧ (err = false → data = responseData i s.regs)

theorem AnswersByTable.of_performed {i : Instr} {s : State} {g : Regs}
    (h : g.cause = 0 ∨ i = .sysStat) :
    AnswersByTable i s (.next (s.answered g false (responseData i s.regs))) :=
  ⟨g, false, _, rfl, by simpa [← or_iff_not_imp_left] using h, nofun, fun _ => rfl⟩

theorem AnswersByTable.of_failed {i : Instr} {s : State} {g : Regs} (hg : g.cause ≠ 0)
    (hi : i ≠ .sysStat) : AnswersByTable i s (.next (s.answered g true 0)) :=
  ⟨g, true, 0, rfl, ⟨fun _ => ⟨hg, hi⟩, fun _ => rfl⟩, fun _ => rfl, nofun⟩

theorem AnswersByTable.of_raiseFault {i : Instr} {s : State} (c : Cause) (cmd : Word16)
    (hi : i ≠ .sysStat) : AnswersByTable i s (.next (raiseFault c cmd s)) :=
  .of_failed c.code_ne_zero hi

theorem AnswersByTable.of_whenNoFault {i : Instr} {s : State} {perform : State → Result}
    (hi : i ≠ .sysStat) (h : NoFault s → AnswersByTable i s (perform s)) :
    AnswersByTable i s (whenNoFault s perform) := by
  by_cases hs : NoFault s
  · rw [whenNoFault_of_noFault hs]
    exact h hs
  · rw [whenNoFault_of_fault hs]
    exact .of_failed hs hi

theorem coeff_toList {r : Vector Byte 10} {j : Nat} (h : j < 10) : coeff r.toList j = r[j] := by
  simp [coeff, h]

theorem execRsPush_answersByTable (b : Byte) (s : State) :
    AnswersByTable (.rsPush b) s (execRsPush b s) := by
  refine .of_whenNoFault nofun fun hs => ?_
  split
  case isTrue => exact .of_raiseFault .rsOverrun _ nofun
  case isFalse => exact .of_performed (.inl hs)

theorem execRsPop_answersByTable (s : State) : AnswersByTable .rsPop s (execRsPop s) := by
  refine .of_whenNoFault nofun fun hs => ?_
  split
  case isTrue => exact .of_raiseFault .rsUnderrun _ nofun
  case isFalse =>
    split
    case isTrue =>
      rw [← coeff_toList (by omega)]
      exact .of_performed (.inl hs)
    case isFalse => exact .of_raiseFault .rsExhausted _ nofun

theorem exec_answersByTable (i : Instr) (s : State) : AnswersByTable i s (exec i s) := by
  cases i with
  | sysReset => exact .of_performed (.inl rfl)
  | sysStat => exact .of_performed (.inr rfl)
  | rsPush b => exact execRsPush_answersByTable b s
  | rsPop => exact execRsPop_answersByTable s
  | sysNop | rsInit | bchEnc | bchRd | crcInit | crcByte | crcRd | adlInit | adlByte | adlRd =>
    dsimp only [exec]
    exact .of_whenNoFault nofun fun hs => .of_performed (.inl hs)

/-- Raised or refused, an illegal word is answered `(1, 0)`. -/
theorem performIllegal_answers (w : Word16) (s : State) :
    ∃ g, performIllegal w s = .next (s.answered g true 0) := by
  rw [performIllegal_eq]
  split
  case isTrue => exact ⟨_, rfl⟩
  case isFalse => exact ⟨_, rfl⟩

end Sys2Proof.Machine

namespace Sys2Proof

open Sys2Proof.Machine

/-- Settles O51: every command answers by the table, and a word that decodes to none as an illegal
word. -/
theorem everyCommandGetsItsResponse : Obligations.EveryCommandGetsItsResponse := by
  refine ⟨exec_answersByTable, fun w s rest hin hillegal => ?_⟩
  cases hd : decode w with
  | ok i => exact absurd hd (hillegal i)
  | error e =>
    rw [step_of_illegal hin hd]
    exact performIllegal_answers w (s.setInbox rest)

end Sys2Proof
end

section
/-! PROOF. The Reed-Solomon commands (spec/41_rs.md): what each of `RS.INIT`, `RS.PUSH` and `RS.POP` does,
one lemma for each of its cases, and the divider's step. -/

namespace Sys2Proof.Machine

theorem exec_rsInit_of_noFault {s : State} (hs : NoFault s) :
    exec .rsInit s = .next (s.answered { s.regs with r := zeroRemainder, cnt := 0 } false 0) := by
  rw [exec, execRsInit, whenNoFault_of_noFault hs]
  rfl

theorem exec_rsInit_of_fault {s : State} (hs : ¬ NoFault s) :
    exec .rsInit s = .next (s.answered s.regs true 0) := by
  rw [exec, execRsInit, whenNoFault_of_fault hs]

theorem exec_rsPush_of_lt {s : State} (hs : NoFault s) (b : Byte) (hcnt : s.regs.cnt.toNat < 16) :
    exec (.rsPush b) s = .next (s.answered
      { s.regs with r := rsStep s.regs.r b, cnt := s.regs.cnt + 1 } false (zext32 b)) := by
  rw [exec, execRsPush, whenNoFault_of_noFault hs, if_neg hcnt.not_ge]
  rfl

theorem exec_rsPush_of_ge {s : State} (hs : NoFault s) (b : Byte) (hcnt : 16 ≤ s.regs.cnt.toNat) :
    exec (.rsPush b) s = .next (raiseFault .rsOverrun (encode (.rsPush b)) s) := by
  rw [exec, execRsPush, whenNoFault_of_noFault hs, if_pos hcnt]

theorem exec_rsPop_of_lt {s : State} (hs : NoFault s) (hcnt : s.regs.cnt.toNat < 16) :
    exec .rsPop s = .next (raiseFault .rsUnderrun (encode .rsPop) s) := by
  rw [exec, execRsPop, whenNoFault_of_noFault hs, if_pos hcnt]

theorem exec_rsPop_of_eq_add {s : State} (hs : NoFault s) {k : Nat} (hk : k < 10)
    (hcnt : s.regs.cnt.toNat = 16 + k) :
    exec .rsPop s = .next (s.answered { s.regs with cnt := s.regs.cnt + 1 } false
      (zext32 s.regs.r[k])) := by
  have hpos : s.regs.cnt.toNat - 16 = k := by omega
  rw [exec, execRsPop, whenNoFault_of_noFault hs, if_neg (by omega), dif_pos (by omega)]
  simp only [hpos]
  rfl

theorem exec_rsPop_of_ge {s : State} (hs : NoFault s) (hcnt : 26 ≤ s.regs.cnt.toNat) :
    exec .rsPop s = .next (raiseFault .rsExhausted (encode .rsPop) s) := by
  rw [exec, execRsPop, whenNoFault_of_noFault hs, if_neg (by omega), dif_neg hcnt.not_gt]

/-- Below 26 the five bits of `CNT` count one more without wrapping. -/
theorem cnt_succ_toNat {cnt : BitVec 5} (h : cnt.toNat < 26) : (cnt + 1).toNat = cnt.toNat + 1 :=
  BitVec.toNat_add_of_lt (show cnt.toNat + 1 < 2 ^ 5 by omega)

theorem rsStep_getElem_of_lt (r : Vector Byte 10) (b : Byte) {j : Nat} (h : j < 9) :
    (rsStep r b)[j] = r[j + 1] ^^^ gfMul (b ^^^ r[0]) gen[j + 1] := by
  interval_cases j <;> rfl

theorem rsStep_getElem_nine (r : Vector Byte 10) (b : Byte) :
    (rsStep r b)[9] = gfMul (b ^^^ r[0]) gen[10] := rfl

end Sys2Proof.Machine

namespace Sys2Proof

open Sys2Proof.Machine

/-- Settles O17: `RS.INIT` writes the zero remainder and `CNT = 0`, where both flags are 0. -/
theorem rsInitStartsAFrame : Obligations.RsInitStartsAFrame := by
  intro s
  exact ⟨fun hs => ⟨_, exec_rsInit_of_noFault hs, rfl, rfl, rfl⟩, exec_rsInit_of_fault⟩

/-- Settles O18: the step's vector, read at each of its ten positions. -/
theorem dividerStepIsAsStated : Obligations.DividerStepIsAsStated :=
  fun r b => ⟨fun _ => rsStep_getElem_of_lt r b, rsStep_getElem_nine r b⟩

/-- Settles O19: the two cases of `RS.PUSH`; `CNT` has room to count the codeword that it takes. -/
theorem rsPushTakesACodewordOrOverruns : Obligations.RsPushTakesACodewordOrOverruns := by
  intro s b hs
  refine ⟨fun hcnt => ?takes, exec_rsPush_of_ge hs b⟩
  case takes =>
    have hsucc := cnt_succ_toNat (cnt := s.regs.cnt) (by omega)
    refine ⟨_, exec_rsPush_of_lt hs b hcnt, rfl, hsucc, ?_⟩
    rw [Regs.rsFull_eq_true_iff, hsucc]
    omega

/-- Settles O20: the three cases of `RS.POP`; `CNT` has room to count the codeword that it delivers. -/
theorem rsPopDeliversACodewordOrFaults : Obligations.RsPopDeliversACodewordOrFaults := by
  intro s hs
  refine ⟨exec_rsPop_of_lt hs, fun hcnt => exec_rsPop_of_ge hs hcnt.ge, fun k hcnt => ?delivers⟩
  case delivers =>
    have hsucc := cnt_succ_toNat (cnt := s.regs.cnt) (by omega)
    refine ⟨_, exec_rsPop_of_eq_add hs k.isLt hcnt, rfl, hsucc, ?_⟩
    rw [Regs.rsDone_eq_true_iff, hsucc]
    omega

end Sys2Proof
end

section
/-! PROOF. The BCH commands (spec/42_bch.md): what each of `BCH.ENC` and `BCH.RD` does outside the fault
state. -/

namespace Sys2Proof.Machine

/-- R162, with the mask as a number. -/
theorem fmtWord_eq (d : BitVec 5) : fmtWord d = (d ++ bchRem d) ^^^ 0x5412 := rfl

theorem exec_bchEnc_of_noFault {s : State} (hs : NoFault s) (d : BitVec 5) :
    exec (.bchEnc d) s = .next (s.answered { s.regs with fmt := fmtWord d } false
      (zext32 (fmtWord d))) := by
  rw [exec, execBchEnc, whenNoFault_of_noFault hs]
  rfl

theorem exec_bchRd_of_noFault {s : State} (hs : NoFault s) :
    exec .bchRd s = .next (s.answered s.regs false (zext32 s.regs.fmt)) := by
  rw [exec, execBchRd, whenNoFault_of_noFault hs, respond_eq_answered]

end Sys2Proof.Machine

namespace Sys2Proof

open Sys2Proof.Machine

/-- Settles O31: `BCH.ENC` writes and answers the format word, which is the masked word of R162. -/
theorem bchEncWritesTheFormatWord : Obligations.BchEncWritesTheFormatWord := by
  intro s d hs
  rw [← fmtWord_eq]
  exact exec_bchEnc_of_noFault hs d

/-- Settles O32: outside the fault state `BCH.RD` is one response, and that response is `FMT`. -/
theorem bchRdAnswersTheFormatRegister : Obligations.BchRdAnswersTheFormatRegister :=
  fun _ => exec_bchRd_of_noFault

end Sys2Proof
end

section
/-! PROOF. Commands that the host presents (spec/30_encoding.md R73, R74): decoding gives back each encoded
command with its operand, so the step that takes its word performs it. -/

namespace Sys2Proof

open Sys2Proof.Machine

/-- An operand of `n` bits, put in the low `n` bits of a match that has none of them set, leaves the
match under the mask of the bits above them. -/
theorem or_operand_and_highMask {n : Nat} {pattern : Word16}
    (h : pattern &&& BitVec.allOnes 16 <<< n = pattern) (x : BitVec n) :
    (pattern ||| x.setWidth 16) &&& BitVec.allOnes 16 <<< n = pattern := by
  have hx : x.setWidth 16 &&& BitVec.allOnes 16 <<< n = 0#16 := by
    ext i hi
    rcases lt_or_ge i n with hin | hin
    · simp [hin]
    · simp [BitVec.getLsbD_of_ge x i hin]
  rw [BitVec.and_or_distrib_right, h, hx, BitVec.or_zero]

theorem extract_or_operand {n : Nat} {pattern : Word16} (hn : n ≤ 16)
    (h : pattern &&& BitVec.allOnes 16 <<< n = pattern) (x : BitVec n) :
    (pattern ||| x.setWidth 16).extractLsb' 0 n = x := by
  have hp : pattern.setWidth n = 0#n := by
    rw [← h]
    ext i hi
    simp [hi]
  rw [← BitVec.setWidth_eq_extractLsb' hn, BitVec.setWidth_or, hp, BitVec.zero_or,
    BitVec.setWidth_setWidth_of_le x hn, BitVec.setWidth_eq]

/-- A row whose operand is its low `n` bits decodes its match with an operand in it as the command it
builds of that operand. -/
theorem decode_or_operand {row : OpcodeRow} (hr : row ∈ opcodeTable) {n : Nat} (hn : n ≤ 16)
    (hmask : row.mask = BitVec.allOnes 16 <<< n) (hpattern : row.pattern &&& row.mask = row.pattern)
    {command : BitVec n → Instr} (hbuild : ∀ w, row.build w = command (w.extractLsb' 0 n))
    (x : BitVec n) : decode (row.pattern ||| x.setWidth 16) = .ok (command x) := by
  rw [hmask] at hpattern
  rw [decode_of_row hr (hmask ▸ or_operand_and_highMask hpattern x), hbuild,
    extract_or_operand hn hpattern]

theorem decode_encode (i : Instr) : decode (encode i) = .ok i := by
  cases i with
  | rsPush b =>
    exact decode_or_operand (row := opcodeTable[4]) (List.getElem_mem _) (by decide) rfl rfl
      (fun _ => rfl) b
  | bchEnc d =>
    exact decode_or_operand (row := opcodeTable[6]) (List.getElem_mem _) (by decide) rfl rfl
      (fun _ => rfl) d
  | crcByte b =>
    exact decode_or_operand (row := opcodeTable[9]) (List.getElem_mem _) (by decide) rfl rfl
      (fun _ => rfl) b
  | adlByte b =>
    exact decode_or_operand (row := opcodeTable[12]) (List.getElem_mem _) (by decide) rfl rfl
      (fun _ => rfl) b
  | sysNop | sysReset | sysStat | rsInit | rsPop | bchRd | crcInit | crcRd | adlInit | adlRd => rfl

end Sys2Proof

namespace Sys2Proof.Machine

/-- The step that takes the word of a command performs the command, with the word gone. -/
theorem step_of_presented {s : State} {i : Instr} {rest : List PortEvent}
    (h : s.inbox = .command (encode i) :: rest) : step s = exec i (s.setInbox rest) :=
  (step_of_event h).trans (performWord_of_ok (decode_encode i) _)

@[simp] theorem presented_nil : presented [] = [] := rfl

@[simp] theorem presented_cons (i : Instr) (commands : List Instr) :
    presented (i :: commands) = .command (encode i) :: presented commands := rfl

@[simp] theorem presented_append (commands commands' : List Instr) :
    presented (commands ++ commands') = presented commands ++ presented commands' := List.map_append

/-- A run whose first event is a command goes on from the command's answer. -/
theorem runSteps_succ_of_presented {i : Instr} {g g' : Regs} {rest : List PortEvent}
    {rsps : List Response} {err : Bool} {data : Word32}
    (h : exec i ⟨g, rest, rsps⟩ = .next ⟨g', rest, rsps ++ [⟨err, data⟩]⟩) (n : Nat) :
    runSteps (n + 1) ⟨g, .command (encode i) :: rest, rsps⟩ =
      runSteps n ⟨g', rest, rsps ++ [⟨err, data⟩]⟩ :=
  runSteps_succ_of_step ((step_of_presented rfl).trans h) n

/-- A command with a byte that answers `(0, 0)`, makes `update` of the registers and does not enter the
fault state, presented once for each byte of a message: the run folds `update` over the message. -/
theorem runSteps_of_presented_bytes {command : Byte → Instr} {update : Regs → Byte → Regs}
    (hcause : ∀ g b, (update g b).cause = g.cause)
    (hexec : ∀ (s : State) (b : Byte), NoFault s →
      exec (command b) s = .next (s.answered (update s.regs b) false 0))
    (message : List Byte) (rest : List PortEvent) (n : Nat) (g : Regs) (hg : g.cause = 0)
    (rsps : List Response) :
    runSteps (message.length + n) ⟨g, presented (message.map command) ++ rest, rsps⟩ =
      runSteps n ⟨message.foldl update g, rest,
        rsps ++ List.replicate message.length ⟨false, 0⟩⟩ := by
  induction message generalizing g rsps with
  | nil => simp
  | cons b message ih =>
    rw [List.length_cons, Nat.add_right_comm]
    refine (runSteps_succ_of_presented (hexec _ b hg) _).trans ?_
    refine (ih _ ((hcause g b).trans hg) _).trans ?_
    simp [List.replicate_succ]

end Sys2Proof.Machine
end

section
/-! PROOF. The CRC-32 commands (spec/43_crc32.md): what each does outside the fault state, and the run of a
message. -/

namespace Sys2Proof.Machine

theorem exec_crcInit_of_noFault {s : State} (hs : NoFault s) :
    exec .crcInit s = .next (s.answered { s.regs with crc := 0xFFFFFFFF } false 0) := by
  rw [exec, execCrcInit, whenNoFault_of_noFault hs]
  rfl

theorem exec_crcByte_of_noFault {s : State} (hs : NoFault s) (b : Byte) :
    exec (.crcByte b) s =
      .next (s.answered { s.regs with crc := crcStep s.regs.crc b } false 0) := by
  rw [exec, execCrcByte, whenNoFault_of_noFault hs]
  rfl

theorem exec_crcRd_of_noFault {s : State} (hs : NoFault s) :
    exec .crcRd s = .next (s.answered s.regs false (s.regs.crc ^^^ 0xFFFFFFFF)) := by
  rw [exec, execCrcRd, whenNoFault_of_noFault hs]
  rfl

/-- What `CRC.BYTE` makes of the registers. -/
def crcUpdate (g : Regs) (b : Byte) : Regs := { g with crc := crcStep g.crc b }

theorem foldl_crcUpdate (message : List Byte) (g : Regs) :
    message.foldl crcUpdate g = { g with crc := message.foldl crcStep g.crc } :=
  List.foldl_hom (fun c => { g with crc := c }) (fun _ _ => rfl)

theorem runSteps_of_presented_crcBytes (message : List Byte) (rest : List PortEvent) (n : Nat)
    {g : Regs} (hg : g.cause = 0) (rsps : List Response) :
    runSteps (message.length + n) ⟨g, presented (message.map .crcByte) ++ rest, rsps⟩ =
      runSteps n ⟨{ g with crc := message.foldl crcStep g.crc }, rest,
        rsps ++ List.replicate message.length ⟨false, 0⟩⟩ := by
  rw [← foldl_crcUpdate]
  exact runSteps_of_presented_bytes (update := crcUpdate) (fun _ _ => rfl)
    (fun _ b hs => exec_crcByte_of_noFault hs b) message rest n g hg rsps

end Sys2Proof.Machine

namespace Sys2Proof

open Sys2Proof.Machine

/-- Settles O35: the initial value of R180 is `0xFFFFFFFF`. -/
theorem crcInitStartsAMessage : Obligations.CrcInitStartsAMessage :=
  fun _ => exec_crcInit_of_noFault

/-- Settles O36: eight shifts repeated are eight rounds of a fold that looks at no element. -/
theorem crcByteStepsTheRegister : Obligations.CrcByteStepsTheRegister :=
  ⟨fun _ _ => rfl, fun _ b hs => exec_crcByte_of_noFault hs b⟩

/-- Settles O37: the response is the complement, and `CRC` itself is kept. -/
theorem crcRdAnswersTheComplement : Obligations.CrcRdAnswersTheComplement :=
  fun _ => exec_crcRd_of_noFault

/-- Settles O39: the run is `CRC.INIT`, the message's bytes folded into `CRC`, and `CRC.RD`; none of them
enters the fault state. -/
theorem crcMessageYieldsItsChecksum : Obligations.CrcMessageYieldsItsChecksum := by
  rintro ⟨g, inbox, rsps⟩ message rest hg hin
  have hinbox : inbox = .command (encode .crcInit) ::
      (presented (message.map .crcByte) ++ .command (encode .crcRd) :: rest) := by
    simpa [expand] using hin
  -- stated for every `CRC`, so that each step below finds the registers it starts from by unification
  have hno : ∀ crc inbox rsps, NoFault ⟨{ g with crc := crc }, inbox, rsps⟩ := fun _ _ _ => hg
  rw [hinbox]
  calc runSteps (message.length + 2) _
      = runSteps (message.length + 1) ⟨{ g with crc := 0xFFFFFFFF },
          presented (message.map .crcByte) ++ .command (encode .crcRd) :: rest,
          rsps ++ [⟨false, 0⟩]⟩ :=
        runSteps_succ_of_presented (exec_crcInit_of_noFault (hno _ _ _)) _
    _ = runSteps 1 ⟨{ g with crc := message.foldl crcStep 0xFFFFFFFF },
          .command (encode .crcRd) :: rest,
          rsps ++ [⟨false, 0⟩] ++ List.replicate message.length ⟨false, 0⟩⟩ :=
        runSteps_of_presented_crcBytes message _ 1 (hno _ [] []) _
    _ = .next ⟨{ g with crc := message.foldl crcStep 0xFFFFFFFF }, rest,
          rsps ++ [⟨false, 0⟩] ++ List.replicate message.length ⟨false, 0⟩ ++
            [⟨false, message.foldl crcStep 0xFFFFFFFF ^^^ 0xFFFFFFFF⟩]⟩ :=
        runSteps_succ_of_presented (exec_crcRd_of_noFault (hno _ _ _)) 0
    _ = _ := by simp [List.replicate_succ]

end Sys2Proof
end

section
/-! PROOF. The Adler-32 commands (spec/44_adler32.md): what each does outside the fault state, and the two
sums as numbers. -/

namespace Sys2Proof.Machine

theorem exec_adlInit_of_noFault {s : State} (hs : NoFault s) :
    exec .adlInit s = .next (s.answered { s.regs with a := 1, b := 0 } false 0) := by
  rw [exec, execAdlInit, whenNoFault_of_noFault hs]
  rfl

theorem exec_adlByte_of_noFault {s : State} (hs : NoFault s) (x : Byte) :
    exec (.adlByte x) s = .next (s.answered { s.regs with
      a := (adlerStep (s.regs.a, s.regs.b) x).1,
      b := (adlerStep (s.regs.a, s.regs.b) x).2 } false 0) := by
  rw [exec, execAdlByte, whenNoFault_of_noFault hs]
  rfl

theorem exec_adlRd_of_noFault {s : State} (hs : NoFault s) :
    exec .adlRd s = .next (s.answered s.regs false (s.regs.b ++ s.regs.a)) := by
  rw [exec, execAdlRd, whenNoFault_of_noFault hs, respond_eq_answered]

/-- The modulus is below `2 ^ 16`, so the register holds the whole remainder (R110). -/
theorem adlerSum_toNat (x y : Nat) : (adlerSum x y).toNat = (x + y) % 65521 := by
  have hmod : (x + y) % adlerMod < adlerMod := Nat.mod_lt _ (by decide)
  rw [adlerSum, BitVec.toNat_ofNat, Nat.mod_eq_of_lt (hmod.trans (by decide))]

theorem adlerStep_fst_toNat (a b : Word16) (x : Byte) :
    (adlerStep (a, b) x).1.toNat = (a.toNat + x.toNat) % 65521 :=
  adlerSum_toNat _ _

theorem adlerStep_snd_toNat (a b : Word16) (x : Byte) :
    (adlerStep (a, b) x).2.toNat = (b.toNat + (adlerStep (a, b) x).1.toNat) % 65521 :=
  adlerSum_toNat _ _

/-- `{B, A}` as a number: `B` counts multiples of `2 ^ 16`. -/
theorem append_toNat_eq_mul_add (b a : Word16) :
    (b ++ a).toNat = b.toNat * 65536 + a.toNat := by
  rw [BitVec.toNat_append, ← Nat.shiftLeft_add_eq_or_of_lt a.isLt, Nat.shiftLeft_eq]

end Sys2Proof.Machine

namespace Sys2Proof

open Sys2Proof.Machine

/-- Settles O40: the initial sums of R200 are 1 and 0. -/
theorem adlInitStartsAMessage : Obligations.AdlInitStartsAMessage :=
  fun _ => exec_adlInit_of_noFault

/-- Settles O41: the registers written are the two sums of `adlerStep`, the second with the new `A`. -/
theorem adlByteAddsIntoBothSums : Obligations.AdlByteAddsIntoBothSums := fun s x hs =>
  ⟨_, exec_adlByte_of_noFault hs x, rfl, adlerStep_fst_toNat s.regs.a s.regs.b x,
    adlerStep_snd_toNat s.regs.a s.regs.b x⟩

/-- Settles O42: the response is `B` above `A`, and no register is written. -/
theorem adlRdAnswersBothSums : Obligations.AdlRdAnswersBothSums := fun s hs =>
  ⟨_, exec_adlRd_of_noFault hs, append_toNat_eq_mul_add s.regs.b s.regs.a⟩

end Sys2Proof
end

section
/-! PROOF. The system commands and the two reset sources (spec/45_sys.md): what each command does, what a
step with the `rst` pin does, and the `STATUS` word as a number. -/

namespace Sys2Proof.Machine

theorem exec_sysNop_of_noFault {s : State} (hs : NoFault s) :
    exec .sysNop s = .next (s.answered s.regs false 0) := by
  rw [exec, execSysNop, whenNoFault_of_noFault hs, respond_eq_answered]

theorem exec_sysNop_of_fault {s : State} (hs : ¬ NoFault s) :
    exec .sysNop s = .next (s.answered s.regs true 0) := by
  rw [exec, execSysNop, whenNoFault_of_fault hs]

theorem exec_sysReset (s : State) :
    exec .sysReset s = .next (s.answered State.reset.regs false 0) := rfl

theorem exec_sysStat (s : State) :
    exec .sysStat s = .next (s.answered s.regs false s.regs.status) := rfl

theorem resetByPin_eq (s : State) : resetByPin s = ⟨State.reset.regs, s.inbox, []⟩ := rfl

theorem step_of_rst {s : State} {rest : List PortEvent} (h : s.inbox = .rst :: rest) :
    step s = .next ⟨State.reset.regs, rest, []⟩ := by
  rw [step_of_event h, performEvent, resetByPin_eq, State.setInbox_inbox]

/-- A concatenation as a number, for any two widths: the upper part counts multiples of `2 ^ n`. -/
theorem append_toNat {m n : Nat} (x : BitVec m) (y : BitVec n) :
    (x ++ y).toNat = x.toNat * 2 ^ n + y.toNat := by
  rw [BitVec.toNat_append, ← Nat.shiftLeft_add_eq_or_of_lt y.isLt, Nat.shiftLeft_eq]

theorem Regs.rsFull_toNat (g : Regs) : g.rsFull.toNat = if 16 ≤ g.cnt.toNat then 1 else 0 := by
  rw [Regs.rsFull, Bool.toNat, Bool.cond_decide]

theorem Regs.rsDone_toNat (g : Regs) : g.rsDone.toNat = if g.cnt.toNat = 26 then 1 else 0 := by
  rw [Regs.rsDone, Bool.toNat, Bool.cond_decide]

/-- R27 as a sum: each field stands at its lowest bit, and the five reserved bits add nothing. -/
theorem Regs.status_toNat (g : Regs) :
    g.status.toNat = g.badcmd.toNat * 2 ^ 16 + g.rsDone.toNat * 2 ^ 10 + g.rsFull.toNat * 2 ^ 9 +
      g.cnt.toNat * 2 ^ 4 + g.cause.toNat := by
  simp only [Regs.status, append_toNat, BitVec.toNat_ofBool, BitVec.toNat_zero]
  omega

end Sys2Proof.Machine

namespace Sys2Proof

open Sys2Proof.Machine

/-- Settles O2: `SYS.RESET` is one response over the reset registers; the pin's event leaves the list, and
the responses on offer are dropped with it. -/
theorem bothResetSourcesLeaveTheResetState : Obligations.BothResetSourcesLeaveTheResetState :=
  ⟨exec_sysReset, fun _ _ => step_of_rst⟩

/-- Settles O14: the two answers of the fault-state check, with nothing but a response behind it. -/
theorem sysNopOnlyAnswers : Obligations.SysNopOnlyAnswers :=
  fun _ => ⟨exec_sysNop_of_noFault, exec_sysNop_of_fault⟩

/-- Settles O15: the word answered is `STATUS`, whose sum has the two flags in terms of `CNT`. -/
theorem sysStatAnswersTheStatusWord : Obligations.SysStatAnswersTheStatusWord := by
  intro s
  refine ⟨_, exec_sysStat s, ?_⟩
  rw [s.regs.status_toNat, s.regs.rsDone_toNat, s.regs.rsFull_toNat]
  simp only [ite_mul, one_mul, zero_mul]

end Sys2Proof
end

section
/-! PROOF. Encoding gives back every legal word (spec/30_encoding.md R73), so a word is a command exactly
when it is the command's encoding. -/

namespace Sys2Proof

open Sys2Proof.Machine

/-- A word that meets a row is encoded again by the command the row builds: by the row's format, the word
is the match alone or the match with the operand in it. -/
theorem encode_build (w : Word16) :
    ∀ row ∈ opcodeTable, w &&& row.mask = row.pattern → encode (row.build w) = w := by
  have hZ {pattern : Word16} (h : w &&& 0xFFFF = pattern) : pattern = w :=
    h.symm.trans (and_mask_Z w)
  have hB {pattern : Word16} (h : w &&& 0xFF00 = pattern) :
      pattern ||| (operandB w).setWidth 16 = w := h ▸ mask_B_or_operand w
  have hF {pattern : Word16} (h : w &&& 0xFFE0 = pattern) :
      pattern ||| (operandF w).setWidth 16 = w := h ▸ mask_F_or_operand w
  simp only [opcodeTable, List.forall_mem_cons]
  exact ⟨hZ, hZ, hZ, hZ, hB, hZ, hF, hZ, hZ, hB, hZ, hZ, hB, hZ, nofun⟩

theorem encode_of_decode {w : Word16} {i : Instr} (h : decode w = .ok i) : encode i = w := by
  obtain ⟨row, hr, hmatch, rfl⟩ := row_of_decode_ok h
  exact encode_build w row hr hmatch

theorem decode_eq_ok_iff_eq_encode {w : Word16} {i : Instr} : decode w = .ok i ↔ w = encode i :=
  ⟨fun h => (encode_of_decode h).symm, fun h => h ▸ decode_encode i⟩

end Sys2Proof
end

section
/-! PROOF. Faults (spec/60_exceptions.md). Outside the fault state a word raises the fault that the table
of R241 gives it, and with none it is answered without an error; in the fault state it is refused, with
two exceptions (R246). What a step can do is said once, and the statements are read off these cases. -/

namespace Sys2Proof.Machine

theorem Cause.code_injective : Function.Injective Cause.code := by
  intro c c'
  cases c <;> cases c' <;> decide

theorem Cause.code_range (c : Cause) : 1 ≤ c.code.toNat ∧ c.code.toNat ≤ 4 := by
  cases c <;> decide

/-- The fault that a command raises outside the fault state, if any (R241; for `RS.POP` with `CNT` above
26 see log 6). -/
def commandRaises (i : Instr) (g : Regs) : Option Cause :=
  match i with
  | .rsPush _ => if 16 ≤ g.cnt.toNat then some .rsOverrun else none
  | .rsPop =>
    if g.cnt.toNat < 16 then some .rsUnderrun
    else if g.cnt.toNat < 26 then none else some .rsExhausted
  | .sysNop | .sysReset | .sysStat | .rsInit | .bchEnc _ | .bchRd => none
  | .crcInit | .crcByte _ | .crcRd | .adlInit | .adlByte _ | .adlRd => none

/-- The fault that a word raises outside the fault state, if any. -/
def wordRaises (w : Word16) (g : Regs) : Option Cause :=
  match decode w with
  | .ok i => commandRaises i g
  | .error _ => some .illegal

theorem wordRaises_of_ok {w : Word16} {i : Instr} (h : decode w = .ok i) (g : Regs) :
    wordRaises w g = commandRaises i g := by
  simp only [wordRaises, h]

theorem wordRaises_of_error {w : Word16} {e : IllegalReason} (h : decode w = .error e) (g : Regs) :
    wordRaises w g = some .illegal := by
  simp only [wordRaises, h]

theorem commandRaises_rsPush_eq_none_iff {b : Byte} {g : Regs} :
    commandRaises (.rsPush b) g = none ↔ g.cnt.toNat < 16 := by
  simp [commandRaises]

theorem commandRaises_rsPop_eq_none_iff {g : Regs} :
    commandRaises .rsPop g = none ↔ 16 ≤ g.cnt.toNat ∧ g.cnt.toNat < 26 := by
  simp only [commandRaises]
  split_ifs <;> simp <;> omega

/-- R241 for the commands: the rows of the table other than the illegal words. -/
theorem commandRaises_eq_some_iff {i : Instr} {g : Regs} {c : Cause} :
    commandRaises i g = some c ↔
      (c = .rsOverrun ∧ (∃ b, i = .rsPush b) ∧ 16 ≤ g.cnt.toNat) ∨
      (c = .rsUnderrun ∧ i = .rsPop ∧ g.cnt.toNat < 16) ∨
      (c = .rsExhausted ∧ i = .rsPop ∧ 26 ≤ g.cnt.toNat) := by
  cases i with
  | rsPush b => simp [commandRaises, eq_comm, and_comm]
  | rsPop =>
    simp only [commandRaises]
    cases c <;> split_ifs <;> simp <;> omega
  | sysNop | sysReset | sysStat | rsInit | bchEnc | bchRd => simp [commandRaises]
  | crcInit | crcByte | crcRd | adlInit | adlByte | adlRd => simp [commandRaises]

/-- R241, the whole table, by words. -/
theorem wordRaises_eq_some_iff {w : Word16} {g : Regs} {c : Cause} :
    wordRaises w g = some c ↔
      (c = .illegal ∧ ∀ i, decode w ≠ .ok i) ∨
      (c = .rsOverrun ∧ (∃ b, w = encode (.rsPush b)) ∧ 16 ≤ g.cnt.toNat) ∨
      (c = .rsUnderrun ∧ w = encode .rsPop ∧ g.cnt.toNat < 16) ∨
      (c = .rsExhausted ∧ w = encode .rsPop ∧ 26 ≤ g.cnt.toNat) := by
  simp only [← decode_eq_ok_iff_eq_encode]
  cases hd : decode w with
  | ok i => simp [wordRaises_of_ok hd, commandRaises_eq_some_iff]
  | error e => simp [wordRaises_of_error hd, eq_comm]

theorem exec_of_raises {i : Instr} {s : State} {c : Cause} (hs : NoFault s)
    (h : commandRaises i s.regs = some c) : exec i s = .next (raiseFault c (encode i) s) := by
  obtain ⟨rfl, ⟨b, rfl⟩, hcnt⟩ | ⟨rfl, rfl, hcnt⟩ | ⟨rfl, rfl, hcnt⟩ := commandRaises_eq_some_iff.1 h
  · exact exec_rsPush_of_ge hs b hcnt
  · exact exec_rsPop_of_lt hs hcnt
  · exact exec_rsPop_of_ge hs hcnt

/-- A command that raises no fault is answered without an error and does not enter the fault state;
`BADCMD` is kept, or reset by `SYS.RESET`. -/
theorem exec_of_raises_none {i : Instr} {s : State} (hs : NoFault s) (h : commandRaises i s.regs = none) :
    ∃ g data, exec i s = .next (s.answered g false data) ∧ g.cause = 0 ∧
      (g.badcmd = s.regs.badcmd ∨ g.badcmd = 0) := by
  cases i with
  | sysReset => exact ⟨_, _, exec_sysReset s, rfl, .inr rfl⟩
  | sysStat => exact ⟨_, _, exec_sysStat s, hs, .inl rfl⟩
  | rsPush b =>
    exact ⟨_, _, exec_rsPush_of_lt hs b (commandRaises_rsPush_eq_none_iff.1 h), hs, .inl rfl⟩
  | rsPop =>
    obtain ⟨hge, hlt⟩ := commandRaises_rsPop_eq_none_iff.1 h
    exact ⟨_, _, exec_rsPop_of_eq_add hs (k := s.regs.cnt.toNat - 16) (by omega) (by omega),
      hs, .inl rfl⟩
  | sysNop | rsInit | bchEnc | bchRd | crcInit | crcByte | crcRd | adlInit | adlByte | adlRd =>
    dsimp only [exec]
    exact ⟨_, _, whenNoFault_of_noFault hs _, hs, .inl rfl⟩

theorem exec_of_fault {i : Instr} {s : State} (hs : ¬ NoFault s) (hreset : i ≠ .sysReset)
    (hstat : i ≠ .sysStat) : exec i s = .next (s.answered s.regs true 0) := by
  cases i with
  | sysReset => exact absurd rfl hreset
  | sysStat => exact absurd rfl hstat
  | sysNop | rsInit | rsPush | rsPop | bchEnc | bchRd | crcInit | crcByte | crcRd | adlInit | adlByte
  | adlRd =>
    dsimp only [exec]
    exact whenNoFault_of_fault hs _

/-- Everything a word can do outside the fault state: it raises its fault, precisely (R244), or it is
answered without an error. -/
theorem performWord_cases_of_noFault {s t : State} {w : Word16} (hs : NoFault s)
    (h : performWord w s = .next t) :
    (∃ c, wordRaises w s.regs = some c ∧ t = raiseFault c w s) ∨
    (wordRaises w s.regs = none ∧ ∃ g data, t = s.answered g false data ∧ g.cause = 0 ∧
      (g.badcmd = s.regs.badcmd ∨ g.badcmd = 0)) := by
  cases hd : decode w with
  | error e =>
    rw [performWord_of_error hd, performIllegal_of_noFault hs] at h
    exact .inl ⟨.illegal, wordRaises_of_error hd _, (Host.Outcome.next.inj h).symm⟩
  | ok i =>
    rw [performWord_of_ok hd] at h
    rw [wordRaises_of_ok hd]
    cases hr : commandRaises i s.regs with
    | some c =>
      rw [exec_of_raises hs hr, encode_of_decode hd] at h
      exact .inl ⟨c, rfl, (Host.Outcome.next.inj h).symm⟩
    | none =>
      obtain ⟨g, data, hexec, hg⟩ := exec_of_raises_none hs hr
      rw [hexec] at h
      exact .inr ⟨rfl, g, data, (Host.Outcome.next.inj h).symm, hg⟩

/-- `CAUSE` records the fault that the word raises, and no other. -/
theorem cause_eq_code_iff_of_performWord {s t : State} {w : Word16} (hs : NoFault s)
    (h : performWord w s = .next t) (c : Cause) :
    t.regs.cause = c.code ↔ wordRaises w s.regs = some c := by
  obtain ⟨c', hr, rfl⟩ | ⟨hr, g, data, rfl, hg, -⟩ := performWord_cases_of_noFault hs h
  · simp [hr, Cause.code_injective.eq_iff]
  · simpa [hr, hg] using c.code_ne_zero.symm

/-- R246: what the fault state makes of a word. -/
theorem performWord_of_fault {s : State} (hs : ¬ NoFault s) (w : Word16) :
    performWord w s =
      if w = 0x0100 then .next (s.answered State.reset.regs false 0)
      else if w = 0x0200 then .next (s.answered s.regs false s.regs.status)
      else .next (s.answered s.regs true 0) := by
  split_ifs with hreset hstat
  · subst hreset
    exact performWord_of_ok (decode_encode .sysReset) s
  · subst hstat
    exact performWord_of_ok (decode_encode .sysStat) s
  · cases hd : decode w with
    | error e => rw [performWord_of_error hd, performIllegal_eq, if_neg hs]
    | ok i =>
      rw [performWord_of_ok hd]
      obtain rfl := encode_of_decode hd
      exact exec_of_fault hs (fun hi => hreset (congrArg encode hi))
        (fun hi => hstat (congrArg encode hi))

/-- Everything a step can do: it performs a command word, resets, takes a response, or idles. -/
theorem step_cases {s t : State} (h : step s = .next t) :
    (∃ w rest, s.inbox = .command w :: rest ∧ performWord w (s.setInbox rest) = .next t) ∨
    (∃ rest, s.inbox = .rst :: rest ∧ t = ⟨State.reset.regs, rest, []⟩) ∨
    (∃ rest, s.inbox = .take :: rest ∧ t = ⟨s.regs, rest, s.rsps.tail⟩) ∨
    (s.inbox = [] ∧ t = s) := by
  cases hin : s.inbox with
  | nil =>
    simp only [step, stepPorts, hin] at h
    exact .inr (.inr (.inr ⟨rfl, (Host.Outcome.next.inj h).symm⟩))
  | cons e rest =>
    rw [step_of_event hin] at h
    cases e with
    | command w => exact .inl ⟨w, rest, rfl, h⟩
    | rst => exact .inr (.inl ⟨rest, rfl, (Host.Outcome.next.inj h).symm⟩)
    | take => exact .inr (.inr (.inl ⟨rest, rfl, (Host.Outcome.next.inj h).symm⟩))

theorem State.faultPin_eq_true_iff (s : State) : s.faultPin = true ↔ ¬ NoFault s :=
  decide_eq_true_iff

theorem State.faultPin_eq_false_iff (s : State) : s.faultPin = false ↔ NoFault s := by
  rw [← Bool.not_eq_true, s.faultPin_eq_true_iff, not_not]

end Sys2Proof.Machine

namespace Sys2Proof

open Sys2Proof.Machine

/-- Settles O46: `CAUSE` is the code of the fault in R241's table, whose row for `RS.POP` from 26 on is
the row at 26 under the invariant. -/
theorem faultsAreExactlyTheListed : Obligations.FaultsAreExactlyTheListed := by
  intro s t w rest hin hinv hs hstep
  have hperform : performWord w (s.setInbox rest) = .next t := (step_of_event hin).symm.trans hstep
  have hcause := cause_eq_code_iff_of_performWord (s := s.setInbox rest) hs hperform
  obtain ⟨d, hframe⟩ := hinv.frame
  have hcnt : 26 ≤ s.regs.cnt.toNat ↔ s.regs.cnt.toNat = 26 := hframe.cnt_le.ge_iff_eq
  have hrecorded : t.regs.cause.toNat ≤ 4 ∧ t.regs.badcmd = if t.regs.cause = 0 then 0 else w := by
    obtain ⟨c, -, rfl⟩ | ⟨-, g, data, rfl, hg, hbadcmd⟩ :=
      performWord_cases_of_noFault (s := s.setInbox rest) hs hperform
    · exact ⟨c.code_range.2, (if_neg c.code_ne_zero).symm⟩
    · have hzero : s.regs.badcmd = 0 := hinv.badcmd_zero.1 hs
      simpa [hg, hzero] using hbadcmd
  refine ⟨(hcause .illegal).trans ?_, (hcause .rsOverrun).trans ?_, (hcause .rsUnderrun).trans ?_,
    (hcause .rsExhausted).trans ?_, hrecorded⟩
  · simp [wordRaises_eq_some_iff]
  · simp [wordRaises_eq_some_iff, encode]
  · simp [wordRaises_eq_some_iff, encode]
  · simp [wordRaises_eq_some_iff, encode, hcnt]

/-- Settles O47: no event but a word that raises a fault leads from outside the fault state into it, and
fault entry writes `CAUSE` and `BADCMD` alone. -/
theorem faultsArePrecise : Obligations.FaultsArePrecise := by
  intro s t hs hstep ht
  refine ⟨s.faultPin_eq_false_iff.2 hs, t.faultPin_eq_true_iff.2 ht, ?_⟩
  obtain ⟨w, rest, hin, hperform⟩ | ⟨rest, -, rfl⟩ | ⟨rest, -, rfl⟩ | ⟨-, rfl⟩ := step_cases hstep
  case inl =>
    obtain ⟨c, -, rfl⟩ | ⟨-, g, data, rfl, hg, -⟩ :=
      performWord_cases_of_noFault (s := s.setInbox rest) hs hperform
    · exact ⟨c.code_range.1, c.code_range.2, w, rest, hin, rfl⟩
    · exact absurd hg ht
  · exact absurd rfl ht
  · exact absurd hs ht
  · exact absurd hs ht

/-- Settles O48: the step performs the word, and the fault state makes of it what R246 says. -/
theorem faultStateRefusesAllButTwoWords : Obligations.FaultStateRefusesAllButTwoWords :=
  fun s w rest hin hs =>
    (step_of_event hin).trans (performWord_of_fault (s := s.setInbox rest) hs w)

/-- Settles O49: of the words only `0x0100` changes a register, of the other events only the pin. -/
theorem onlyResetLeavesTheFaultState : Obligations.OnlyResetLeavesTheFaultState := by
  intro s t hs hstep
  obtain ⟨w, rest, hin, hperform⟩ | ⟨rest, hin, rfl⟩ | ⟨rest, -, rfl⟩ | ⟨-, rfl⟩ := step_cases hstep
  case inl =>
    rw [performWord_of_fault (s := s.setInbox rest) hs] at hperform
    split_ifs at hperform with hreset hstat <;> cases hperform
    · exact .inr ⟨rfl, .inl (by rw [hin, hreset, List.head?_cons])⟩
    · exact .inl rfl
    · exact .inl rfl
  · exact .inr ⟨rfl, .inr (by rw [hin, List.head?_cons])⟩
  · exact .inl rfl
  · exact .inl rfl

/-- Settles O59: the output rises with a precise fault (O47) and falls with a reset (O49); taking a
response and idling change no register. -/
theorem faultPinFollowsTheCause : Obligations.FaultPinFollowsTheCause := by
  refine ⟨State.faultPin_eq_true_iff, fun s t hstep => ⟨fun hs ht => ?rises, fun hs ht => ?falls,
    fun hcommand hrst => ?asynchronous⟩⟩
  case rises =>
    obtain ⟨-, -, -, -, w, rest, hin, heq⟩ := faultsArePrecise s t
      (s.faultPin_eq_false_iff.1 hs) hstep (t.faultPin_eq_true_iff.1 ht)
    exact ⟨w, rest, hin, congrArg State.rsps heq⟩
  case falls =>
    have hfault := s.faultPin_eq_true_iff.1 hs
    obtain hsame | ⟨-, hreset⟩ := onlyResetLeavesTheFaultState s t hfault hstep
    · exact absurd (hsame ▸ t.faultPin_eq_false_iff.1 ht : s.regs.cause = 0) hfault
    · exact hreset
  case asynchronous =>
    obtain ⟨w, rest, hin, -⟩ | ⟨rest, hin, -⟩ | ⟨rest, -, rfl⟩ | ⟨-, rfl⟩ := step_cases hstep
    · exact absurd (by rw [hin, List.head?_cons]) (hcommand w)
    · exact absurd (by rw [hin, List.head?_cons]) hrst
    · rfl
    · rfl

end Sys2Proof
end

section
/-! PROOF. The state after reset (spec/70_reset_and_hazards.md R270). The flags and the `STATUS` word have
no storage of their own (R29), so their values after reset follow from those of `CNT`, `CAUSE` and
`BADCMD`. -/

namespace Sys2Proof.Machine

theorem State.reset_r : State.reset.regs.r = Vector.replicate 10 0 := rfl

theorem State.reset_noFault : NoFault State.reset := rfl

theorem Regs.rsFull_eq_false_iff (g : Regs) : g.rsFull = false ↔ g.cnt.toNat < 16 := by
  rw [← Bool.not_eq_true, g.rsFull_eq_true_iff, not_le]

theorem Regs.rsDone_eq_false_iff (g : Regs) : g.rsDone = false ↔ g.cnt.toNat ≠ 26 := by
  rw [← Bool.not_eq_true, g.rsDone_eq_true_iff]

theorem Regs.status_eq_zero_iff (g : Regs) :
    g.status = 0 ↔ g.badcmd = 0 ∧ g.cnt = 0 ∧ g.cause = 0 := by
  constructor
  · intro h
    rw [← g.status_extract_badcmd, ← g.status_extract_cnt, ← g.status_extract_cause, h]
    decide
  · rintro ⟨hbadcmd, hcnt, hcause⟩
    apply BitVec.eq_of_toNat_eq
    rw [g.status_toNat, g.rsDone_toNat, g.rsFull_toNat, hbadcmd, hcnt, hcause]
    decide

end Sys2Proof.Machine

namespace Sys2Proof

open Sys2Proof.Machine

/-- Settles O1: the stored registers are the literals of R270, `R` byte by byte; the flags, the pin and
the `STATUS` word follow from them. -/
theorem resetStateIsAsStated : Obligations.ResetStateIsAsStated := by
  refine ⟨fun j => ?remainder, rfl, rfl, rfl, rfl, rfl, rfl, rfl, ?full, ?done, ?faulted, ?pin, ?status⟩
  case remainder =>
    rw [State.reset_r, Fin.getElem_fin, Vector.getElem_replicate]
  case full => exact (Regs.rsFull_eq_false_iff _).2 (by decide)
  case done => exact (Regs.rsDone_eq_false_iff _).2 (by decide)
  case faulted => exact State.reset.faultPin_eq_false_iff.2 State.reset_noFault
  case pin => exact State.reset.faultPin_eq_false_iff.2 State.reset_noFault
  case status => exact (Regs.status_eq_zero_iff _).2 ⟨rfl, rfl, rfl⟩

end Sys2Proof
end

section
/-! PROOF. The encoding as a round trip (spec/30_encoding.md R73, R74), and words written out bit by bit. -/

namespace Sys2Proof

open Sys2Proof.Machine

/-- Settles O11: each row's match with the operand in it is read back by that row. -/
theorem decodeInvertsEncode : Obligations.DecodeInvertsEncode := decode_encode

/-- Settles O12: the row that decodes a word says every bit of it but its operand's. -/
theorem encodeInvertsDecode : Obligations.EncodeInvertsDecode := fun _ _ => encode_of_decode

/-- Settles O8: the legal words are the encodings of their commands; `0x1201` has the fields of `RS.POP`
with an operand. -/
theorem specEncodingsDecode : Obligations.SpecEncodingsDecode :=
  ⟨decode_encode .sysNop, decode_encode .sysStat, decode_encode (.rsPush 0x54), decode_encode .rsPop,
    decode_encode (.bchEnc 0b10011), decode_encode (.crcByte 0x49), decode_encode .adlRd, rfl⟩

end Sys2Proof
end

section
/-! PROOF. The step at the ports (spec/20_memory.md R52, R53): what it does with each event, and that it
answers a next state whatever the event is (spec/70_reset_and_hazards.md R281, R282). -/

namespace Sys2Proof.Machine

theorem step_of_idle {s : State} (h : s.inbox = []) : step s = .next s := by
  simp only [step, stepPorts, h]

theorem step_of_command {s : State} {w : Word16} {rest : List PortEvent}
    (h : s.inbox = .command w :: rest) : step s = performWord w (s.setInbox rest) :=
  step_of_event h

theorem step_of_take {s : State} {rest : List PortEvent} (h : s.inbox = .take :: rest) :
    step s = .next ⟨s.regs, rest, s.rsps.tail⟩ :=
  step_of_event h

/-- A step answers a next state, and the event it performed is gone. -/
theorem step_answers (s : State) : ∃ t, step s = .next t ∧ t.inbox = s.inbox.tail := by
  cases hin : s.inbox with
  | nil => exact ⟨s, step_of_idle hin, hin⟩
  | cons e rest =>
    cases e with
    | command w =>
      obtain ⟨g, err, data, hperform⟩ := performWord_answers w (s.setInbox rest)
      exact ⟨_, (step_of_command hin).trans hperform, rfl⟩
    | take => exact ⟨_, step_of_take hin, rfl⟩
    | rst => exact ⟨_, step_of_rst hin, rfl⟩

/-- A run of as many steps as there are events at the ports performs them all. -/
theorem runSteps_empties_inbox (s : State) :
    ∃ t, runSteps s.inbox.length s = .next t ∧ t.inbox = [] := by
  induction hin : s.inbox generalizing s with
  | nil => exact ⟨s, rfl, hin⟩
  | cons e rest ih =>
    obtain ⟨t, hstep, htail⟩ := step_answers s
    obtain ⟨t', hrun, hempty⟩ := ih t (by rw [htail, hin, List.tail_cons])
    exact ⟨t', (runSteps_succ_of_step hstep _).trans hrun, hempty⟩

end Sys2Proof.Machine

namespace Sys2Proof

open Sys2Proof.Machine

/-- Settles O4: the step performs the word, and a word that decodes performs its command. -/
theorem stepPerformsTheOfferedCommand : Obligations.StepPerformsTheOfferedCommand :=
  fun _ _ _ _ hin hd => (step_of_command hin).trans (performWord_of_ok hd _)

/-- Settles O5: with no event at the ports there is nothing to perform. -/
theorem idleStepChangesNothing : Obligations.IdleStepChangesNothing := fun _ => step_of_idle

/-- Settles O6: the response offered at the port is the head of the list, and taking leaves its tail. -/
theorem takingDeliversTheOldestResponse : Obligations.TakingDeliversTheOldestResponse := by
  intro s rest hin
  refine ⟨fun r rs hrsps => ⟨?offered, ?taken⟩, fun hrsps => ?none⟩
  case offered => rw [State.offeredResponse, hrsps, List.head?_cons]
  case taken => rw [step_of_take hin, hrsps, List.tail_cons]
  case none => rw [step_of_take hin, hrsps, List.tail_nil]

/-- Settles O7: a step answers from every state, so a run goes on until the ports are empty. -/
theorem everyPresentedEventIsPerformed : Obligations.EveryPresentedEventIsPerformed :=
  ⟨step_answers, runSteps_empties_inbox⟩

end Sys2Proof
end

section
/-! PROOF. What a performed command makes of the registers, as one function of them. Every command's
answer is one of three: performed, a fault raised, or refused; what a command writes, what it reads and
what it leaves alone are read off these cases. -/

namespace Sys2Proof.Machine

/-- The registers after command `i` is performed without a fault (the commands' rules of
spec/41_rs.md to spec/45_sys.md). -/
def performedRegs (i : Instr) (g : Regs) : Regs :=
  match i with
  | .sysReset => Regs.reset
  | .rsInit => { g with r := zeroRemainder, cnt := 0 }
  | .rsPush b => { g with r := rsStep g.r b, cnt := g.cnt + 1 }
  | .rsPop => { g with cnt := g.cnt + 1 }
  | .bchEnc d => { g with fmt := fmtWord d }
  | .crcInit => { g with crc := crcInitial }
  | .crcByte b => { g with crc := crcStep g.crc b }
  | .adlInit => { g with a := adlerInitialA, b := adlerInitialB }
  | .adlByte b => { g with a := (adlerStep (g.a, g.b) b).1, b := (adlerStep (g.a, g.b) b).2 }
  | .sysNop | .sysStat | .bchRd | .crcRd | .adlRd => g

/-- Outside the fault state a command that raises no fault is performed: it writes its registers and
answers by R77's table. -/
theorem exec_of_performed {i : Instr} {s : State} (hs : NoFault s)
    (h : commandRaises i s.regs = none) :
    exec i s = .next (s.answered (performedRegs i s.regs) false (responseData i s.regs)) := by
  cases i with
  | sysReset => exact exec_sysReset s
  | sysStat => exact exec_sysStat s
  | rsPush b => exact exec_rsPush_of_lt hs b (commandRaises_rsPush_eq_none_iff.1 h)
  | rsPop =>
    obtain ⟨hge, hlt⟩ := commandRaises_rsPop_eq_none_iff.1 h
    rw [responseData, coeff_toList (by omega)]
    exact exec_rsPop_of_eq_add hs (k := s.regs.cnt.toNat - 16) (by omega) (by omega)
  | sysNop | rsInit | bchEnc | bchRd | crcInit | crcByte | crcRd | adlInit | adlByte | adlRd =>
    dsimp only [exec]
    exact whenNoFault_of_noFault hs _

/-- The two commands that the fault state performs (R246). -/
def PerformedInFault (i : Instr) : Prop := i = .sysReset ∨ i = .sysStat

theorem exec_of_performedInFault {i : Instr} (hi : PerformedInFault i) (s : State) :
    exec i s = .next (s.answered (performedRegs i s.regs) false (responseData i s.regs)) := by
  obtain rfl | rfl := hi
  · exact exec_sysReset s
  · exact exec_sysStat s

/-- Everything a command can do. -/
theorem exec_cases {i : Instr} {s t : State} (h : exec i s = .next t) :
    (commandRaises i s.regs = none ∧ (NoFault s ∨ PerformedInFault i) ∧
      t = s.answered (performedRegs i s.regs) false (responseData i s.regs)) ∨
    (∃ c, NoFault s ∧ commandRaises i s.regs = some c ∧ t = raiseFault c (encode i) s) ∨
    (¬ NoFault s ∧ ¬ PerformedInFault i ∧ t = s.answered s.regs true 0) := by
  by_cases hi : PerformedInFault i
  · rw [exec_of_performedInFault hi] at h
    refine .inl ⟨?_, .inr hi, (Host.Outcome.next.inj h).symm⟩
    obtain rfl | rfl := hi <;> rfl
  by_cases hs : NoFault s
  · cases hr : commandRaises i s.regs with
    | none =>
      rw [exec_of_performed hs hr] at h
      exact .inl ⟨rfl, .inl hs, (Host.Outcome.next.inj h).symm⟩
    | some c =>
      rw [exec_of_raises hs hr] at h
      exact .inr (.inl ⟨c, hs, rfl, (Host.Outcome.next.inj h).symm⟩)
  · rw [exec_of_fault hs (fun h => hi (.inl h)) (fun h => hi (.inr h))] at h
    exact .inr (.inr ⟨hs, hi, (Host.Outcome.next.inj h).symm⟩)

/-! ### Units own registers -/

/-- The registers that a unit owns are the same in `g` and `h` (spec/10_state.md R20). -/
def sameAt (u : CommandUnit) (g h : Regs) : Prop :=
  match u with
  | .rs => g.r = h.r ∧ g.cnt = h.cnt
  | .bch => g.fmt = h.fmt
  | .crc => g.crc = h.crc
  | .adl => g.a = h.a ∧ g.b = h.b
  | .sys => g.cause = h.cause ∧ g.badcmd = h.badcmd

theorem sameAt.refl (u : CommandUnit) (g : Regs) : sameAt u g g := by
  cases u <;> simp [sameAt]

theorem sameAt.symm {u : CommandUnit} {g h : Regs} (hgh : sameAt u g h) : sameAt u h g := by
  cases u <;> simpa [sameAt, eq_comm] using hgh

theorem sameAt.trans {u : CommandUnit} {g h k : Regs} (hgh : sameAt u g h) (hhk : sameAt u h k) :
    sameAt u g k := by
  cases u <;> simp_all [sameAt]

/-- Every register belongs to a unit. -/
theorem Regs.eq_of_sameAt {g h : Regs} (hsame : ∀ u, sameAt u g h) : g = h := by
  obtain ⟨hr, hcnt⟩ := hsame .rs
  obtain ⟨ha, hb⟩ := hsame .adl
  obtain ⟨hcause, hbadcmd⟩ := hsame .sys
  have hfmt := hsame .bch
  have hcrc := hsame .crc
  cases g
  cases h
  simp_all [sameAt]

theorem sameOutside_of_sameAt {u : CommandUnit} {g h : Regs}
    (hsame : ∀ v, v ≠ u → sameAt v g h) : sameOutside u g h :=
  have other (v : CommandUnit) : u = v ∨ sameAt v g h :=
    or_iff_not_imp_left.2 fun hv => hsame v (Ne.symm hv)
  ⟨other .rs, other .bch, other .crc, other .adl, other .sys⟩

/-- A performed command writes no register of another unit. -/
theorem sameAt_performedRegs {i : Instr} {u : CommandUnit} (hi : i ≠ .sysReset) (hu : u ≠ i.unit)
    (g : Regs) : sameAt u g (performedRegs i g) := by
  cases i with
  | sysReset => exact absurd rfl hi
  | sysNop | sysStat | bchRd | crcRd | adlRd => exact sameAt.refl u g
  | rsInit | rsPush | rsPop | bchEnc | crcInit | crcByte | adlInit | adlByte =>
    cases u <;> simp_all [sameAt, performedRegs, Instr.unit]

/-- What a performed command writes in its unit is a function of the unit's registers. -/
theorem sameAt_performedRegs_congr (i : Instr) {g h : Regs} (hsame : sameAt i.unit g h) :
    sameAt i.unit (performedRegs i g) (performedRegs i h) := by
  cases i <;> simp_all [sameAt, performedRegs, Instr.unit]

/-- Whether a command faults, and what it answers, is a function of its unit's registers, except for
`SYS.STAT`. -/
theorem commandRaises_congr (i : Instr) {g h : Regs} (hsame : sameAt i.unit g h) :
    commandRaises i g = commandRaises i h := by
  cases i <;> simp_all [sameAt, commandRaises, Instr.unit]

theorem responseData_congr {i : Instr} (hi : i ≠ .sysStat) {g h : Regs} (hsame : sameAt i.unit g h) :
    responseData i g = responseData i h := by
  cases i <;> simp_all [sameAt, responseData, Instr.unit]

/-- Performed commands of different units leave the same registers in either order. -/
theorem performedRegs_comm {i j : Instr} (hi : i ≠ .sysReset) (hj : j ≠ .sysReset)
    (hne : i.unit ≠ j.unit) (g : Regs) :
    performedRegs i (performedRegs j g) = performedRegs j (performedRegs i g) := by
  /- at the unit of the one command, the other before it makes no difference, nor after it -/
  have own {i j : Instr} (hj : j ≠ .sysReset) (hne : i.unit ≠ j.unit) :
      sameAt i.unit (performedRegs i (performedRegs j g)) (performedRegs j (performedRegs i g)) :=
    (sameAt_performedRegs_congr i (sameAt_performedRegs hj hne g).symm).trans
      (sameAt_performedRegs hj hne (performedRegs i g))
  refine Regs.eq_of_sameAt fun u => ?_
  by_cases hui : u = i.unit
  · exact hui ▸ own hj hne
  by_cases huj : u = j.unit
  · exact huj ▸ (own hi hne.symm).symm
  · have left := (sameAt_performedRegs hj huj g).trans (sameAt_performedRegs hi hui _)
    have right := (sameAt_performedRegs hi hui g).trans (sameAt_performedRegs hj huj _)
    exact left.symm.trans right

/-- Of the commands, only `SYS.RESET` leads from the fault state out of it. -/
theorem noFault_of_exec {i : Instr} {s t : State} (hi : i ≠ .sysReset) (h : exec i s = .next t)
    (ht : NoFault t) : NoFault s := by
  by_contra hs
  obtain ⟨-, hperformed | rfl | rfl, rfl⟩ | ⟨c, hperformed, -⟩ | ⟨-, -, rfl⟩ := exec_cases h
  · exact hs hperformed
  · exact hi rfl
  · exact hs ht
  · exact hs hperformed
  · exact hs ht

/-- A command that ends outside the fault state was performed. -/
theorem performed_of_noFault {i : Instr} {s t : State} (h : exec i s = .next t) (ht : NoFault t) :
    commandRaises i s.regs = none ∧
      t = s.answered (performedRegs i s.regs) false (responseData i s.regs) := by
  obtain ⟨hr, -, rfl⟩ | ⟨c, -, -, rfl⟩ | ⟨hs, -, rfl⟩ := exec_cases h
  · exact ⟨hr, rfl⟩
  · exact absurd ht c.code_ne_zero
  · exact absurd ht hs

end Sys2Proof.Machine

namespace Sys2Proof

open Sys2Proof.Machine

/-- Settles O52: a performed command writes its own unit's registers, a refused one writes none, and a
fault is raised by `RS.PUSH` or `RS.POP` alone. -/
theorem commandsLeaveOtherUnitsAlone : Obligations.CommandsLeaveOtherUnitsAlone := by
  intro i s t hi hexec
  obtain ⟨-, -, rfl⟩ | ⟨c, hs, hr, rfl⟩ | ⟨-, -, rfl⟩ := exec_cases hexec
  · exact ⟨rfl, ⟨_, rfl⟩, .inl (sameOutside_of_sameAt fun u hu => sameAt_performedRegs hi hu s.regs)⟩
  · refine ⟨rfl, ⟨_, rfl⟩, .inr ⟨hs, ?_, rfl⟩⟩
    obtain ⟨-, hpush, -⟩ | ⟨-, hpop, -⟩ | ⟨-, hpop, -⟩ := commandRaises_eq_some_iff.1 hr
    · exact .inl hpush
    · exact .inr hpop
    · exact .inr hpop
  · exact ⟨rfl, ⟨_, rfl⟩, .inl (sameOutside_of_sameAt fun u _ => sameAt.refl u s.regs)⟩

/-- Settles O53: with no fault at the end both commands were performed, and neither reads or writes what
the other writes. -/
theorem commandsOfDifferentUnitsCommute : Obligations.CommandsOfDifferentUnitsCommute := by
  intro i j s s₁ t₁ hi hj hne hexec₁ hexec₂ ht
  have not_sys {k : Instr} (hk : k.unit ≠ .sys) : k ≠ .sysReset ∧ k ≠ .sysStat :=
    ⟨fun h => hk (h ▸ rfl), fun h => hk (h ▸ rfl)⟩
  obtain ⟨hireset, histat⟩ := not_sys hi
  obtain ⟨hjreset, hjstat⟩ := not_sys hj
  have hs₁ := noFault_of_exec hjreset hexec₂ ht
  have hs := noFault_of_exec hireset hexec₁ hs₁
  obtain ⟨hri, rfl⟩ := performed_of_noFault hexec₁ hs₁
  obtain ⟨hrj, rfl⟩ := performed_of_noFault hexec₂ ht
  have hsame_j := sameAt_performedRegs hireset hne.symm s.regs
  have hsame_i := sameAt_performedRegs hjreset hne s.regs
  have hexec_j := exec_of_performed hs ((commandRaises_congr j hsame_j).trans hrj)
  have hs₂ : NoFault (s.answered (performedRegs j s.regs) false (responseData j s.regs)) :=
    (sameAt_performedRegs hjreset hj.symm s.regs).1.symm.trans hs
  have hexec_i := exec_of_performed hs₂ ((commandRaises_congr i hsame_i).symm.trans hri)
  refine ⟨_, _, ⟨false, responseData i s.regs⟩, ⟨false, responseData j s.regs⟩, hexec_j, hexec_i,
    performedRegs_comm hireset hjreset hne s.regs, ?_, ?_⟩
  · simp [← responseData_congr hjstat hsame_j]
  · simp [← responseData_congr histat hsame_i]

end Sys2Proof
end

section
/-! PROOF. Runs of presented commands: the twelve commands that raise no fault (spec/60_exceptions.md R241),
registers and words as all that decides a response (spec/10_state.md R33), and commands that may be
repeated (spec/20_memory.md R58). -/

namespace Sys2Proof.Machine

/-- A run of commands none of which raises a fault in any registers ends outside the fault state. -/
theorem safeRun_of_never_raises {commands : List Instr}
    (hraises : ∀ i ∈ commands, ∀ g, commandRaises i g = none) {s : State} {rest : List PortEvent}
    (hs : NoFault s) (hin : s.inbox = presented commands ++ rest) : SafeRun commands.length s := by
  induction commands generalizing s with
  | nil => exact ⟨s, rfl, hs⟩
  | cons i commands ih =>
    obtain ⟨hi, hcommands⟩ := List.forall_mem_cons.1 hraises
    obtain ⟨g, data, hexec, hg, -⟩ :=
      exec_of_raises_none (s := s.setInbox (presented commands ++ rest)) hs (hi s.regs)
    obtain ⟨t, hrun, ht⟩ := ih hcommands
      (s := (s.setInbox (presented commands ++ rest)).answered g false data) hg rfl
    exact ⟨t, (runSteps_succ_of_step ((step_of_presented hin).trans hexec) _).trans hrun, ht⟩

/-- The registers a word leaves and the response it gets are functions of the registers and the word. -/
theorem performWord_of_regs (w : Word16) (g : Regs) :
    ∃ g' err data, ∀ s : State, s.regs = g → performWord w s = .next (s.answered g' err data) := by
  by_cases hg : g.cause = 0
  · cases hd : decode w with
    | error e =>
      refine ⟨{ g with cause := Cause.illegal.code, badcmd := w }, true, 0, ?_⟩
      rintro s rfl
      exact (performWord_of_error hd s).trans (performIllegal_of_noFault hg w)
    | ok i =>
      cases hr : commandRaises i g with
      | none =>
        refine ⟨performedRegs i g, false, responseData i g, ?_⟩
        rintro s rfl
        exact (performWord_of_ok hd s).trans (exec_of_performed hg hr)
      | some c =>
        refine ⟨{ g with cause := c.code, badcmd := encode i }, true, 0, ?_⟩
        rintro s rfl
        exact (performWord_of_ok hd s).trans (exec_of_raises hg hr)
  · have hperform (s : State) (h : s.regs = g) := performWord_of_fault (s := s) (fun hs => hg (h ▸ hs)) w
    split_ifs at hperform
    · exact ⟨_, _, _, hperform⟩
    · exact ⟨g, false, g.status, fun s h => h ▸ hperform s h⟩
    · exact ⟨g, true, 0, fun s h => h ▸ hperform s h⟩

/-- The same of a run of words. -/
theorem runSteps_of_words (words : List Word16) (g : Regs) :
    ∃ g' rs, rs.length = words.length ∧ ∀ (s : State) (rest : List PortEvent), s.regs = g →
      s.inbox = words.map .command ++ rest →
      runSteps words.length s = .next ⟨g', rest, s.rsps ++ rs⟩ := by
  induction words generalizing g with
  | nil =>
    refine ⟨g, [], rfl, ?_⟩
    rintro s rest rfl hin
    rw [List.append_nil, show rest = s.inbox from hin.symm]
    rfl
  | cons w words ih =>
    obtain ⟨g₁, err, data, hperform⟩ := performWord_of_regs w g
    obtain ⟨g', rs, hlength, hrun⟩ := ih g₁
    refine ⟨g', ⟨err, data⟩ :: rs, congrArg (· + 1) hlength, fun s rest hregs hin => ?_⟩
    have hstep := (step_of_command hin).trans (hperform _ hregs)
    rw [List.length_cons, runSteps_succ_of_step hstep, hrun _ rest rfl rfl, State.answered_rsps,
      State.setInbox_rsps, List.append_assoc, List.singleton_append]

/-- A command whose second performance would write and answer what the first did may be repeated. -/
theorem exec_twice {i : Instr} {s : State} {g : Regs} {data : Word32} (hs : NoFault s)
    (hraises : ∀ h, commandRaises i h = none) (hg : g.cause = 0)
    (hfirst : performedRegs i s.regs = g ∧ responseData i s.regs = data)
    (hsecond : performedRegs i g = g ∧ responseData i g = data) :
    exec i s = .next (s.answered g false data) ∧
      exec i (s.answered g false data) = .next ((s.answered g false data).answered g false data) := by
  constructor
  · rw [exec_of_performed hs (hraises _), hfirst.1, hfirst.2]
  · rw [exec_of_performed hg (hraises _), State.answered_regs, hsecond.1, hsecond.2]

end Sys2Proof.Machine

namespace Sys2Proof

open Sys2Proof.Machine

/-- Settles O50: R241 gives no fault to the commands other than `RS.PUSH` and `RS.POP`. -/
theorem onlyFrameCommandsRaiseFaults : Obligations.OnlyFrameCommandsRaiseFaults := by
  intro commands s rest hs hcommands hin
  refine safeRun_of_never_raises (fun i hi g => ?_) hs hin
  obtain ⟨hpush, hpop⟩ := hcommands i hi
  rw [Option.eq_none_iff_forall_ne_some]
  intro c hraises
  obtain ⟨-, ⟨b, hb⟩, -⟩ | ⟨-, hi, -⟩ | ⟨-, hi, -⟩ := commandRaises_eq_some_iff.1 hraises
  · exact hpush b hb
  · exact hpop hi
  · exact hpop hi

/-- Settles O54: what a run of words makes of the registers and answers names neither the rest of the ports
nor the responses on offer. -/
theorem noHiddenStateDecidesAResponse : Obligations.NoHiddenStateDecidesAResponse := by
  intro words s s' rest rest' hregs hin hin'
  obtain ⟨g, rs, hlength, hrun⟩ := runSteps_of_words words s.regs
  exact ⟨g, rs, hlength, hrun s rest rfl hin, hrun s' rest' hregs.symm hin'⟩

/-- Settles O3: each of the three writes the reset values of its unit's registers. -/
theorem initCommandsLeaveTheResetValues : Obligations.InitCommandsLeaveTheResetValues := by
  intro i hi s hreset
  have hs : NoFault s := by rw [NoFault, hreset]; rfl
  simp only [List.mem_cons, List.not_mem_nil, or_false] at hi
  obtain rfl | rfl | rfl := hi
  · rw [exec_rsInit_of_noFault hs, hreset]; rfl
  · rw [exec_crcInit_of_noFault hs, hreset]; rfl
  · rw [exec_adlInit_of_noFault hs, hreset]; rfl

/-- Settles O55: a reading command and a repeated `BCH.ENC` find the registers as they leave them; the
second `RS.POP` finds `CNT` one further and the same `R`. -/
theorem readsMayBeRepeated : Obligations.ReadsMayBeRepeated := by
  refine ⟨fun i hi s hs => ?reads, fun d s hs => ?encodes, fun s k hk hs hcnt => ?pops⟩
  case reads =>
    simp only [List.mem_cons, List.not_mem_nil, or_false] at hi
    obtain rfl | rfl | rfl | rfl := hi
    all_goals exact ⟨_, exec_twice hs (fun _ => rfl) hs ⟨rfl, rfl⟩ ⟨rfl, rfl⟩⟩
  case encodes =>
    exact ⟨_, _, exec_twice (g := { s.regs with fmt := fmtWord d }) hs (fun _ => rfl) hs
      ⟨rfl, rfl⟩ ⟨rfl, rfl⟩⟩
  case pops =>
    have hsucc := cnt_succ_toNat (cnt := s.regs.cnt) (by omega)
    refine ⟨{ s.regs with cnt := s.regs.cnt + 1 }, { s.regs with cnt := s.regs.cnt + 1 + 1 },
      exec_rsPop_of_eq_add hs (by omega) hcnt, ?_⟩
    refine exec_rsPop_of_eq_add ?_ (k := k + 1) (by omega) ?_
    · exact hs
    · rw [State.answered_regs, hsucc, hcnt, Nat.add_assoc]

end Sys2Proof
end

section
/-! PROOF. Multiplication in GF(256) (spec/40_gf256_arith.md R103, R104). It is additive in both operands,
and an additive function of a byte is known from its values at the eight single bits. -/

namespace Sys2Proof.Machine

/-- The function is additive over XOR, the addition of R101. -/
def XorLinear (f : Byte → Byte) : Prop := ∀ a b, f (a ^^^ b) = f a ^^^ f b

/-- The XOR of one term for each set bit of `a`, from bit 0 up. -/
def xorOverBits (a : Byte) (term : Nat → Byte) : Byte :=
  [0, 1, 2, 3, 4, 5, 6, 7].foldl (fun acc i => if a.getLsbD i then acc ^^^ term i else acc) 0

theorem xorOverBits_congr {a : Byte} {term term' : Nat → Byte} (h : ∀ i < 8, term i = term' i) :
    xorOverBits a term = xorOverBits a term' := by
  refine List.foldl_ext _ _ _ fun acc i hi => ?_
  rw [h i (List.mem_range.1 hi)]

/-- A byte is the XOR of its set bits. -/
theorem xorOverBits_one_shiftLeft (a : Byte) : xorOverBits a ((1 : Byte) <<< ·) = a := by
  have round (c : Bool) (p x : Byte) (j : Nat) :
      (if c then p ^^^ x else p).getLsbD j = (p.getLsbD j ^^ (c && x.getLsbD j)) := by
    cases c <;> simp
  apply BitVec.eq_of_getLsbD_eq
  intro j hj
  simp only [xorOverBits, List.foldl, round]
  interval_cases j <;> simp

theorem XorLinear.zero {f : Byte → Byte} (hf : XorLinear f) : f 0 = 0 := by
  have h := hf 0 0
  rwa [BitVec.xor_self, BitVec.xor_self] at h

theorem XorLinear.xorOverBits {f : Byte → Byte} (hf : XorLinear f) (a : Byte) (term : Nat → Byte) :
    f (xorOverBits a term) = Machine.xorOverBits a fun i => f (term i) := by
  rw [Machine.xorOverBits, Machine.xorOverBits, ← List.foldl_hom f (init := 0) fun acc i => ?round,
    hf.zero]
  case round => rw [apply_ite f, hf]

/-- An additive function is the XOR of its values at the set bits. -/
theorem XorLinear.eq_xorOverBits {f : Byte → Byte} (hf : XorLinear f) (a : Byte) :
    f a = Machine.xorOverBits a fun i => f ((1 : Byte) <<< i) := by
  rw [← hf.xorOverBits, xorOverBits_one_shiftLeft]

theorem XorLinear.eq_of_bits {f g : Byte → Byte} (hf : XorLinear f) (hg : XorLinear g)
    (h : ∀ i < 8, f ((1 : Byte) <<< i) = g ((1 : Byte) <<< i)) (a : Byte) : f a = g a := by
  rw [hf.eq_xorOverBits, hg.eq_xorOverBits, xorOverBits_congr h]

theorem gfMul_xor_right (a : Byte) : XorLinear (gfMul a) := by
  have term (c d : Bool) (x : Byte) :
      (if c ^^ d then x else 0) = (if c then x else 0) ^^^ (if d then x else 0) := by
    cases c <;> cases d <;> simp
  intro b c
  simp only [gfMul_eq, BitVec.getLsbD_xor, term]
  ac_rfl

theorem gfMul_xor_left (b : Byte) : XorLinear (gfMul · b) := by
  have term (c : Bool) (x y : Byte) :
      (if c then x ^^^ y else 0) = (if c then x else 0) ^^^ (if c then y else 0) := by
    cases c <;> simp
  intro a c
  simp only [gfMul_eq, xtime_xor, term]
  ac_rfl

theorem gfMul_xor (a b c : Byte) : gfMul a (b ^^^ c) = gfMul a b ^^^ gfMul a c := gfMul_xor_right a b c

theorem xor_gfMul (a b c : Byte) : gfMul (a ^^^ b) c = gfMul a c ^^^ gfMul b c := gfMul_xor_left c a b

theorem gfMul_zero_right (a : Byte) : gfMul a 0 = 0 := (gfMul_xor_right a).zero

theorem gfMul_zero_left (b : Byte) : gfMul 0 b = 0 := (gfMul_xor_left b).zero

theorem gfMul_one_right (a : Byte) : gfMul a 1 = a := by
  simp [gfMul_eq]

/-- Both sides are additive in both operands, so the 64 products of single bits decide. -/
theorem gfMul_comm (a b : Byte) : gfMul a b = gfMul b a := by
  have bits : ∀ i < 8, ∀ j < 8, gfMul ((1 : Byte) <<< i) ((1 : Byte) <<< j) =
      gfMul ((1 : Byte) <<< j) ((1 : Byte) <<< i) := by decide
  refine (gfMul_xor_left b).eq_of_bits (gfMul_xor_right b) (fun i hi => ?_) a
  exact (gfMul_xor_right _).eq_of_bits (gfMul_xor_left _) (bits i hi) b

theorem gfMul_xtime_left (a b : Byte) : gfMul (xtime a) b = xtime (gfMul a b) := by
  simp only [gfMul_eq, xtime_xor, apply_ite xtime, xtime_zero]

theorem gfMul_iterate_xtime_right (n : Nat) (a b : Byte) :
    gfMul a (xtime^[n] b) = xtime^[n] (gfMul a b) := by
  have hsemi : Function.Semiconj (gfMul a) xtime xtime := fun x => by
    rw [gfMul_comm, gfMul_xtime_left, gfMul_comm]
  exact hsemi.iterate_right n b

/-- Multiplying by a single bit is doubling. -/
theorem gfMul_bit {i : Nat} (hi : i < 8) (a : Byte) : gfMul a ((1 : Byte) <<< i) = xtime^[i] a := by
  have bit : ∀ i < 8, xtime^[i] 1 = (1 : Byte) <<< i := by decide
  rw [← bit i hi, gfMul_iterate_xtime_right, gfMul_one_right]

/-- Both sides are additive in `c`, and at a single bit they are doublings of the same product. -/
theorem gfMul_assoc (a b c : Byte) : gfMul (gfMul a b) c = gfMul a (gfMul b c) := by
  have hright : XorLinear fun c => gfMul a (gfMul b c) := fun c d => by simp only [gfMul_xor]
  refine (gfMul_xor_right (gfMul a b)).eq_of_bits hright (fun i hi => ?_) c
  rw [gfMul_bit hi, gfMul_bit hi, gfMul_iterate_xtime_right]

theorem natCast_one_shiftLeft (i : Nat) : ((1 <<< i : Nat) : Byte) = (1 : Byte) <<< i := by
  apply BitVec.eq_of_toNat_eq
  simp [Nat.shiftLeft_eq]

end Sys2Proof.Machine
end

section
/-! PROOF. The powers of `alpha` (spec/40_gf256_arith.md R104 to R107). `alpha` has order 255, so its powers
are as many as there are non-zero elements: each is one of them, and `LOG` finds which. -/

namespace Sys2Proof.Machine

theorem alphaPow_eq_iterate (n : Nat) : alphaPow n = xtime^[n] 1 := by
  induction n with
  | zero => rfl
  | succ n ih => rw [alphaPow, ih, Function.iterate_succ_apply']

theorem gfMul_alphaPow (m n : Nat) : gfMul (alphaPow m) (alphaPow n) = alphaPow (m + n) := by
  rw [alphaPow_eq_iterate n, gfMul_iterate_xtime_right, gfMul_one_right, alphaPow_eq_iterate,
    alphaPow_eq_iterate, ← Function.iterate_add_apply, Nat.add_comm]

theorem alphaPow_ne_zero (n : Nat) : alphaPow n ≠ 0 := by
  have xtime_ne_zero : ∀ a, a ≠ 0 → xtime a ≠ 0 := by decide +kernel
  induction n with
  | zero => decide
  | succ n ih => exact xtime_ne_zero _ ih

theorem isPeriodicPt_xtime_one : Function.IsPeriodicPt xtime 255 1 := by
  change xtime^[255] 1 = 1
  decide +kernel

/-- The order divides 255 and is none of its proper divisors. -/
theorem minimalPeriod_xtime_one : Function.minimalPeriod xtime 1 = 255 := by
  have divisors : ∀ d ∈ Nat.divisors 255, xtime^[d] 1 = 1 → d = 255 := by decide +kernel
  refine divisors _ ?_ (Function.isPeriodicPt_minimalPeriod xtime 1)
  exact Nat.mem_divisors.2 ⟨isPeriodicPt_xtime_one.minimalPeriod_dvd, by decide⟩

theorem alphaPow_injOn {i j : Nat} (hi : i < 255) (hj : j < 255) (h : alphaPow i = alphaPow j) :
    i = j := by
  rw [alphaPow_eq_iterate, alphaPow_eq_iterate] at h
  rw [← minimalPeriod_xtime_one] at hi hj
  exact Function.iterate_injOn_Iio_minimalPeriod hi hj h

theorem expEntry_eq (i : Nat) : expEntry i = alphaPow i := by
  rw [expEntry, alphaPow_eq_iterate, alphaPow_eq_iterate, isPeriodicPt_xtime_one.iterate_mod_apply]

/-- The 255 different powers are all of the 255 non-zero elements. -/
theorem exists_alphaPow_eq {a : Byte} (ha : a ≠ 0) : ∃ i < 255, alphaPow i = a := by
  have hsub : (Finset.range 255).image alphaPow ⊆ Finset.univ.erase 0 := by
    intro b hb
    obtain ⟨i, -, rfl⟩ := Finset.mem_image.1 hb
    exact Finset.mem_erase.2 ⟨alphaPow_ne_zero i, Finset.mem_univ _⟩
  have hcard : ((Finset.range 255).image alphaPow).card = 255 := by
    rw [Finset.card_image_of_injOn, Finset.card_range]
    intro i hi j hj
    exact alphaPow_injOn (Finset.mem_range.1 hi) (Finset.mem_range.1 hj)
  have hbytes : Fintype.card Byte = 256 :=
    (Fintype.card_congr BitVec.equivFin.toEquiv).trans (Fintype.card_fin _)
  have heq := Finset.eq_of_subset_of_card_le hsub
    (by rw [hcard, Finset.card_erase_of_mem (Finset.mem_univ _), Finset.card_univ, hbytes])
  have hmem : a ∈ (Finset.range 255).image alphaPow :=
    heq ▸ Finset.mem_erase.2 ⟨ha, Finset.mem_univ a⟩
  obtain ⟨i, hi, hia⟩ := Finset.mem_image.1 hmem
  exact ⟨i, Finset.mem_range.1 hi, hia⟩

/-- The search answers the first power that is the element. -/
theorem logSearch_eq_some {a : Byte} {k n i : Nat} {p : Byte} (hk : k < n) (hfound : xtime^[k] p = a)
    (hfirst : ∀ j < k, xtime^[j] p ≠ a) : logSearch a n i p = some (i + k) := by
  induction n generalizing k i p with
  | zero => exact absurd hk (Nat.not_lt_zero k)
  | succ n ih =>
    cases k with
    | zero => exact if_pos hfound
    | succ k =>
      have hp : p ≠ a := hfirst 0 (Nat.succ_pos k)
      rw [logSearch, if_neg hp, Nat.add_comm k, ← Nat.add_assoc]
      exact ih (Nat.lt_of_succ_lt_succ hk) hfound fun j hj => hfirst (j + 1) (Nat.succ_lt_succ hj)

theorem logSearch_eq_none {a : Byte} {n i : Nat} {p : Byte} (hnone : ∀ j < n, xtime^[j] p ≠ a) :
    logSearch a n i p = none := by
  induction n generalizing i p with
  | zero => rfl
  | succ n ih =>
    have hp : p ≠ a := hnone 0 (Nat.succ_pos n)
    rw [logSearch, if_neg hp]
    exact ih fun j hj => hnone (j + 1) (Nat.succ_lt_succ hj)

theorem gfLog_alphaPow {i : Nat} (hi : i < 255) : gfLog (alphaPow i) = some i := by
  rw [gfLog, logSearch_eq_some hi (alphaPow_eq_iterate i).symm, Nat.zero_add]
  intro j hj h
  rw [← alphaPow_eq_iterate] at h
  exact hj.ne (alphaPow_injOn (hj.trans hi) hi h)

theorem gfLog_zero : gfLog 0 = none :=
  logSearch_eq_none fun j _ => alphaPow_eq_iterate j ▸ alphaPow_ne_zero j

end Sys2Proof.Machine

namespace Sys2Proof

open Sys2Proof.Machine

/-- Settles O27: commutativity and associativity by the single bits; two non-zero elements are powers of
`alpha`, and so is their product. -/
theorem gfMultiplicationObeysTheFieldLaws : Obligations.GfMultiplicationObeysTheFieldLaws := by
  refine ⟨gfMul_comm, gfMul_assoc, gfMul_xor_right, gfMul_one_right, fun a b ha hb => ?_⟩
  obtain ⟨i, -, rfl⟩ := exists_alphaPow_eq ha
  obtain ⟨j, -, rfl⟩ := exists_alphaPow_eq hb
  rw [gfMul_alphaPow]
  exact alphaPow_ne_zero (i + j)

/-- Settles O28: the order of `alpha` is 255, and the search meets each power first at its own index. -/
theorem logarithmInvertsThePowersOfAlpha : Obligations.LogarithmInvertsThePowersOfAlpha := by
  refine ⟨fun a ha => ?_, fun i hi => ?_, ?_, gfLog_zero⟩
  · obtain ⟨i, hi, rfl⟩ := exists_alphaPow_eq ha
    exact ⟨i, hi, rfl, gfLog_alphaPow hi, expEntry_eq i⟩
  · rw [expEntry_eq, gfLog_alphaPow hi]
  · rw [alphaPow_eq_iterate]
    exact isPeriodicPt_xtime_one

/-- Settles O29: products of powers add the exponents; an operand without a logarithm is zero. -/
theorem tableMultiplicationAgrees : Obligations.TableMultiplicationAgrees := by
  intro a b
  by_cases ha : a = 0
  · rw [ha, gfMul_zero_left, gfMulTab, gfLog_zero]
  by_cases hb : b = 0
  · rw [hb, gfMul_zero_right, gfMulTab, gfLog_zero]
    cases gfLog a <;> rfl
  obtain ⟨i, hi, rfl⟩ := exists_alphaPow_eq ha
  obtain ⟨j, hj, rfl⟩ := exists_alphaPow_eq hb
  simp only [gfMulTab, gfLog_alphaPow hi, gfLog_alphaPow hj, expEntry_eq, gfMul_alphaPow]

/-- Settles O30: a product is additive in its first operand. -/
theorem constantMultipliersAreXorsOfColumns : Obligations.ConstantMultipliersAreXorsOfColumns := by
  intro x g
  refine ((gfMul_xor_left g).eq_xorOverBits x).trans (xorOverBits_congr fun i _ => ?_)
  rw [natCast_one_shiftLeft]

/-- Settles O60: the low 8 bits of `0x11D` are the reduction, and the round of R103 doubles as it adds. -/
theorem fieldArithmeticIsWrittenOut : Obligations.FieldArithmeticIsWrittenOut := by
  refine ⟨fun a => ?_, fun a b => rfl, rfl⟩
  rw [apply_ite (BitVec.setWidth 8), xtime_eq]
  split_ifs
  all_goals
    apply BitVec.eq_of_getLsbD_eq
    intro i hi
    interval_cases i <;> simp

/-- Settles O21: the ten products of R131, and the eleven evaluations of the polynomial they give. -/
theorem generatorIsTheProductOfItsFactors : Obligations.GeneratorIsTheProductOfItsFactors :=
  ⟨by decide +kernel, by decide +kernel, by decide +kernel⟩

end Sys2Proof
end

section
/-! PROOF. The divider against the reference division (spec/41_rs.md R132, R134, R135), coefficient by
coefficient: after `k` iterations of R132's loop, what stands at and behind position `k` is what was there,
XORed with the divider's register after `k` bytes. -/

namespace Sys2Proof.Machine

theorem byte_zero_xor (a : Byte) : 0 ^^^ a = a := BitVec.zero_xor

theorem byte_xor_zero (a : Byte) : a ^^^ 0 = a := BitVec.xor_zero

theorem coeff_of_length_le {m : List Byte} {i : Nat} (h : m.length ≤ i) : coeff m i = 0 :=
  List.getD_eq_default m 0 h

theorem coeff_eq_getElem {m : List Byte} {i : Nat} (h : i < m.length) : coeff m i = m[i] :=
  List.getD_eq_getElem m 0 h

theorem coeff_zeros (n i : Nat) : coeff (List.replicate n 0) i = 0 := by
  rw [coeff, List.getD_eq_getElem?_getD, List.getElem?_getD_replicate_default_eq]

theorem coeff_append_zeros (m : List Byte) (n i : Nat) : coeff (m ++ List.replicate n 0) i = coeff m i := by
  rcases lt_or_ge i m.length with hi | hi
  · exact List.getD_append _ _ _ _ hi
  · rw [coeff, List.getD_append_right _ _ _ _ hi, coeff_of_length_le hi]
    exact coeff_zeros _ _

theorem eq_of_coeff {m m' : List Byte} (hlength : m.length = m'.length)
    (h : ∀ i < m.length, coeff m i = coeff m' i) : m = m' := by
  refine List.ext_getElem hlength fun i hi hi' => ?_
  rw [← coeff_eq_getElem hi, ← coeff_eq_getElem hi', h i hi]

/-- R134 at every position: 0 stands beyond `R[9]` and beyond `GEN[10]`. -/
theorem coeff_rsStep (r : Vector Byte 10) (b : Byte) (j : Nat) :
    coeff (rsStep r b).toList j =
      coeff r.toList (j + 1) ^^^ gfMul (b ^^^ coeff r.toList 0) (coeff gen.toList (j + 1)) := by
  have hgen {j : Nat} (h : j < 11) : coeff gen.toList j = gen[j] := by simp [coeff, h]
  have hr : r.toList.length = 10 := r.length_toList
  rw [coeff_toList (r := r) (j := 0) (by decide)]
  rcases lt_trichotomy j 9 with hj | rfl | hj
  · rw [coeff_toList (by omega), coeff_toList (by omega), hgen (by omega), rsStep_getElem_of_lt r b hj]
  · rw [coeff_toList (by omega), coeff_of_length_le hr.le, hgen (by omega), rsStep_getElem_nine,
      byte_zero_xor]
  · rw [coeff_of_length_le ((rsStep r b).length_toList.trans_le hj),
      coeff_of_length_le (by omega), coeff_of_length_le (m := gen.toList) (Nat.succ_le_succ hj),
      gfMul_zero_right, byte_zero_xor]

theorem length_divideAt (m : List Byte) (i : Nat) : (divideAt m i).length = m.length :=
  List.length_mapIdx

theorem coeff_divideAt {m : List Byte} {i p : Nat} (hip : i < p) (hp : p < m.length) :
    coeff (divideAt m i) p = coeff m p ^^^ gfMul (coeff gen.toList (p - i)) (coeff m i) := by
  rw [coeff_eq_getElem (hp.trans_eq (length_divideAt m i).symm), coeff_eq_getElem hp]
  simp only [divideAt, List.getElem_mapIdx]
  split
  case isTrue => rfl
  case isFalse h =>
    rw [coeff_of_length_le (m := gen.toList) (show 11 ≤ p - i by omega), gfMul_zero_left,
      byte_xor_zero]

/-- The list of R132 after the first `k` iterations of the loop. -/
def dividedUpTo (d : List Byte) (k : Nat) : List Byte :=
  (List.range k).foldl divideAt (d ++ List.replicate 10 0)

theorem dividedUpTo_succ (d : List Byte) (k : Nat) :
    dividedUpTo d (k + 1) = divideAt (dividedUpTo d k) k := by
  rw [dividedUpTo, List.range_succ, List.foldl_append]
  rfl

theorem length_dividedUpTo (d : List Byte) (k : Nat) : (dividedUpTo d k).length = d.length + 10 := by
  induction k with
  | zero => simp [dividedUpTo]
  | succ k ih => rw [dividedUpTo_succ, length_divideAt, ih]

theorem rsRemainder_append_singleton (d : List Byte) (b : Byte) :
    rsRemainder (d ++ [b]) = rsStep (rsRemainder d) b := List.foldl_append

theorem zeroRemainder_toList : zeroRemainder.toList = List.replicate 10 0 := rfl

theorem coeff_dividedUpTo {d : List Byte} {k : Nat} (hk : k ≤ d.length) {p : Nat} (hkp : k ≤ p)
    (hp : p < d.length + 10) :
    coeff (dividedUpTo d k) p = coeff (rsRemainder (d.take k)).toList (p - k) ^^^ coeff d p := by
  induction k generalizing p with
  | zero =>
    have hzero : coeff (rsRemainder (d.take 0)).toList (p - 0) = 0 :=
      coeff_zeros 10 (p - 0)
    rw [hzero, byte_zero_xor]
    exact coeff_append_zeros d 10 p
  | succ k ih =>
    have hlt : k < d.length := hk
    have hpos : p - (k + 1) + 1 = p - k := by omega
    rw [dividedUpTo_succ, coeff_divideAt hkp (by rw [length_dividedUpTo]; exact hp),
      ih hlt.le (by omega) hp, ih hlt.le le_rfl (by omega), List.take_succ_eq_append_getElem hlt,
      rsRemainder_append_singleton, coeff_rsStep, hpos, Nat.sub_self, coeff_eq_getElem hlt,
      gfMul_comm (coeff gen.toList (p - k)), BitVec.xor_comm d[k]]
    ac_rfl

/-- R135, for a message of any length. -/
theorem rsRemainder_toList (d : List Byte) : (rsRemainder d).toList = divideBlock d := by
  have hblock : divideBlock d = (dividedUpTo d d.length).drop d.length := rfl
  rw [hblock]
  refine eq_of_coeff (by simp [length_dividedUpTo]) fun j hj => ?_
  have hj' : j < 10 := hj.trans_eq (rsRemainder d).length_toList
  calc coeff (rsRemainder d).toList j
      = coeff (dividedUpTo d d.length) (d.length + j) := by
        rw [coeff_dividedUpTo le_rfl (by omega) (by omega), List.take_length, Nat.add_sub_cancel_left,
          coeff_of_length_le (m := d) (by omega), byte_xor_zero]
    _ = coeff ((dividedUpTo d d.length).drop d.length) j := by
        rw [coeff, coeff, List.getD_eq_getElem?_getD, List.getD_eq_getElem?_getD, List.getElem?_drop]

theorem rsEc_eq (d : Vector Byte 16) : rsEc d = (rsRemainder d.toList).toList :=
  (rsRemainder_toList d.toList).symm

end Sys2Proof.Machine

namespace Sys2Proof

open Sys2Proof.Machine

/-- Settles O22: behind the last position of the data there was nothing, so the divider's register is what
stands there. -/
theorem dividerComputesTheReferenceRemainder : Obligations.DividerComputesTheReferenceRemainder :=
  rsRemainder_toList

end Sys2Proof
end

section
/-! PROOF. The EC codewords as a linear code (spec/41_rs.md R140). A step of the divider is linear in the
register and the byte together; and it keeps the pushed bytes, read as a polynomial with the register
behind them, at 0 wherever the generator polynomial is 0. -/

namespace Sys2Proof.Machine

theorem rsStep_xor (r r' : Vector Byte 10) (b b' : Byte) :
    rsStep (Vector.zipWith (· ^^^ ·) r r') (b ^^^ b') =
      Vector.zipWith (· ^^^ ·) (rsStep r b) (rsStep r' b') := by
  have hfb : b ^^^ b' ^^^ (r[0] ^^^ r'[0]) = (b ^^^ r[0]) ^^^ (b' ^^^ r'[0]) := by ac_rfl
  ext1 j hj
  rcases Nat.lt_succ_iff_lt_or_eq.1 hj with hj | rfl
  · simp only [rsStep_getElem_of_lt _ _ hj, Vector.getElem_zipWith, hfb, xor_gfMul]
    ac_rfl
  · simp only [rsStep_getElem_nine, Vector.getElem_zipWith, hfb, xor_gfMul]

theorem rsStep_map (c : Byte) (r : Vector Byte 10) (b : Byte) :
    rsStep (r.map (gfMul c)) (gfMul c b) = (rsStep r b).map (gfMul c) := by
  ext1 j hj
  rcases Nat.lt_succ_iff_lt_or_eq.1 hj with hj | rfl
  · simp only [rsStep_getElem_of_lt _ _ hj, Vector.getElem_map, ← gfMul_xor, gfMul_assoc]
  · simp only [rsStep_getElem_nine, Vector.getElem_map, ← gfMul_xor, gfMul_assoc]

theorem foldl_rsStep_xor {d e : List Byte} (hlength : d.length = e.length) (r r' : Vector Byte 10) :
    (List.zipWith (· ^^^ ·) d e).foldl rsStep (Vector.zipWith (· ^^^ ·) r r') =
      Vector.zipWith (· ^^^ ·) (d.foldl rsStep r) (e.foldl rsStep r') := by
  induction d generalizing e r r' with
  | nil =>
    obtain rfl := List.eq_nil_of_length_eq_zero hlength.symm
    rfl
  | cons b d ih =>
    obtain ⟨b', e, rfl⟩ := List.exists_cons_of_length_eq_add_one hlength.symm
    rw [List.zipWith_cons_cons, List.foldl_cons, rsStep_xor, ih (Nat.succ_injective hlength),
      List.foldl_cons, List.foldl_cons]

theorem zeroRemainder_eq : zeroRemainder = Vector.replicate 10 0 := rfl

theorem rsRemainder_xor {d e : List Byte} (hlength : d.length = e.length) :
    rsRemainder (List.zipWith (· ^^^ ·) d e) =
      Vector.zipWith (· ^^^ ·) (rsRemainder d) (rsRemainder e) := by
  have hzero : zeroRemainder = Vector.zipWith (· ^^^ ·) zeroRemainder zeroRemainder := by
    rw [zeroRemainder_eq, Vector.zipWith_replicate, BitVec.xor_self]
    rfl
  rw [rsRemainder, hzero]
  exact foldl_rsStep_xor hlength zeroRemainder zeroRemainder

theorem rsRemainder_map (c : Byte) (d : List Byte) :
    rsRemainder (d.map (gfMul c)) = (rsRemainder d).map (gfMul c) := by
  have hzero : zeroRemainder = zeroRemainder.map (gfMul c) := by
    rw [zeroRemainder_eq, Vector.map_replicate, gfMul_zero_right]
  rw [rsRemainder, List.foldl_map, hzero]
  exact List.foldl_hom (Vector.map (gfMul c)) fun r b => rsStep_map c r b

/-- Horner's rule from `acc`: the value at `x` of a polynomial whose coefficients are those behind `acc`,
highest power first, and before them what `acc` is the value of. -/
def hornerFrom (x acc : Byte) (p : List Byte) : Byte := p.foldl (fun acc c => gfMul acc x ^^^ c) acc

theorem polyEval_append (p q : List Byte) (x : Byte) :
    polyEval (p ++ q) x = hornerFrom x (polyEval p x) q := List.foldl_append

theorem hornerFrom_cons (x acc c : Byte) (p : List Byte) :
    hornerFrom x acc (c :: p) = hornerFrom x (gfMul acc x ^^^ c) p := rfl

theorem hornerFrom_append_singleton (x acc c : Byte) (p : List Byte) :
    hornerFrom x acc (p ++ [c]) = gfMul (hornerFrom x acc p) x ^^^ c := List.foldl_append

theorem hornerFrom_xor {p q : List Byte} (hlength : p.length = q.length) (x acc acc' : Byte) :
    hornerFrom x (acc ^^^ acc') (List.zipWith (· ^^^ ·) p q) =
      hornerFrom x acc p ^^^ hornerFrom x acc' q := by
  induction p generalizing q acc acc' with
  | nil =>
    obtain rfl := List.eq_nil_of_length_eq_zero hlength.symm
    rfl
  | cons c p ih =>
    obtain ⟨c', q, rfl⟩ := List.exists_cons_of_length_eq_add_one hlength.symm
    have hround : gfMul (acc ^^^ acc') x ^^^ (c ^^^ c') =
        (gfMul acc x ^^^ c) ^^^ (gfMul acc' x ^^^ c') := by
      rw [xor_gfMul]
      ac_rfl
    rw [List.zipWith_cons_cons, hornerFrom_cons, hround, ih (Nat.succ_injective hlength),
      hornerFrom_cons, hornerFrom_cons]

theorem hornerFrom_map (x c acc : Byte) (p : List Byte) :
    hornerFrom x (gfMul c acc) (p.map (gfMul c)) = gfMul c (hornerFrom x acc p) := by
  rw [hornerFrom, List.foldl_map]
  refine List.foldl_hom (gfMul c) fun acc y => ?_
  rw [gfMul_assoc, gfMul_xor]

theorem hornerFrom_zeros (x : Byte) (n : Nat) : hornerFrom x 0 (List.replicate n 0) = 0 := by
  induction n with
  | zero => rfl
  | succ n ih => rw [List.replicate_succ, hornerFrom_cons, gfMul_zero_left, byte_xor_zero, ih]

/-- R134 for the whole register: it moves up by one, and the generator polynomial below its leading
coefficient is added `fb` times. -/
theorem rsStep_toList (r : Vector Byte 10) (b : Byte) :
    (rsStep r b).toList = List.zipWith (· ^^^ ·) (r.toList.tail ++ [0])
      (gen.toList.tail.map (gfMul (b ^^^ r[0]))) := by
  have hlength : r.toList.tail.length = 9 := by simp
  refine List.ext_getElem (by simp) fun j hj _ => ?_
  rw [Vector.length_toList] at hj
  rw [List.getElem_zipWith, List.getElem_map, Vector.getElem_toList]
  rcases Nat.lt_succ_iff_lt_or_eq.1 hj with hj | rfl
  · rw [rsStep_getElem_of_lt _ _ hj, List.getElem_append_left (by omega)]
    simp
  · rw [rsStep_getElem_nine, List.getElem_append_right (by omega)]
    simp

/-- The generator polynomial is 0 at `x`; its leading coefficient is 1. -/
def IsGenRoot (x : Byte) : Prop := hornerFrom x 1 gen.toList.tail = 0

theorem isGenRoot_alphaPow : ∀ i < 10, IsGenRoot (alphaPow i) := by
  unfold IsGenRoot
  decide +kernel

/-- At a root of the generator polynomial a pushed byte keeps the value of the polynomial pushed so far
with the register behind it at 0. -/
theorem hornerFrom_rsStep {x : Byte} (hx : IsGenRoot x) {acc : Byte} {r : Vector Byte 10}
    (h : hornerFrom x acc r.toList = 0) (b : Byte) :
    hornerFrom x (gfMul acc x ^^^ b) (rsStep r b).toList = 0 := by
  have hcons : r.toList ++ [(0 : Byte)] = r[0] :: (r.toList.tail ++ [0]) := by
    rw [← List.cons_append, ← Vector.getElem_toList (by simp), ← List.head_eq_getElem (by simp),
      List.cons_head_tail]
  have hmoved : hornerFrom x (gfMul acc x ^^^ r[0]) (r.toList.tail ++ [0]) = 0 := by
    rw [← hornerFrom_cons, ← hcons, hornerFrom_append_singleton, h, gfMul_zero_left, byte_xor_zero]
  have hadded : hornerFrom x (b ^^^ r[0]) (gen.toList.tail.map (gfMul (b ^^^ r[0]))) = 0 := by
    have := hornerFrom_map x (b ^^^ r[0]) 1 gen.toList.tail
    rwa [gfMul_one_right, hx, gfMul_zero_right] at this
  have hacc : gfMul acc x ^^^ b = (gfMul acc x ^^^ r[0]) ^^^ (b ^^^ r[0]) := by
    rw [BitVec.xor_comm b, ← BitVec.xor_assoc, BitVec.xor_assoc _ r[0] r[0], BitVec.xor_self,
      BitVec.xor_zero]
  rw [rsStep_toList, hacc, hornerFrom_xor (by simp), hmoved, hadded, byte_xor_zero]

/-- R140 (b), for a message of any length. -/
theorem polyEval_append_rsRemainder {x : Byte} (hx : IsGenRoot x) (d : List Byte) :
    polyEval (d ++ (rsRemainder d).toList) x = 0 := by
  rw [polyEval_append]
  induction d using List.reverseRecOn with
  | nil => exact hornerFrom_zeros x 10
  | append_singleton d b ih =>
    rw [rsRemainder_append_singleton, polyEval_append]
    exact hornerFrom_rsStep hx ih b

end Sys2Proof.Machine

namespace Sys2Proof

open Sys2Proof.Machine

/-- Settles O25: the EC codewords are the divider's register (O22), whose every step is linear. -/
theorem ecCodewordsAreLinear : Obligations.EcCodewordsAreLinear := by
  refine ⟨fun d e => ?sum, fun c d => ?scaled, ?zero⟩
  case sum =>
    rw [rsEc_eq, rsEc_eq, rsEc_eq, Vector.toList_zipWith, rsRemainder_xor (by simp),
      Vector.toList_zipWith]
  case scaled => rw [rsEc_eq, rsEc_eq, Vector.toList_map, rsRemainder_map, Vector.toList_map]
  case zero => decide +kernel

/-- Settles O26: the stream is the data with the divider's register behind it (O22). -/
theorem streamVanishesAtTheGeneratorsRoots : Obligations.StreamVanishesAtTheGeneratorsRoots := by
  intro d i hi
  rw [rsStream, rsEc_eq]
  exact polyEval_append_rsRemainder (isGenRoot_alphaPow i hi) d.toList

end Sys2Proof
end

section
/-! PROOF. The run of a frame (spec/41_rs.md R139): pushes while there is room for them, and pops of what
`R` holds. -/

namespace Sys2Proof.Machine

theorem cnt_add_succ (cnt : BitVec 5) (m : Nat) :
    cnt + 1 + BitVec.ofNat 5 m = cnt + BitVec.ofNat 5 (m + 1) := by
  rw [Nat.add_comm m, BitVec.ofNat_add, BitVec.add_assoc]
  rfl

/-- `RS.PUSH` for each byte of `d`, in a frame with room for them. -/
theorem runSteps_of_presented_pushes (d : List Byte) (rest : List PortEvent) (n : Nat) {g : Regs}
    (hg : g.cause = 0) (hcnt : g.cnt.toNat + d.length ≤ 16) (rsps : List Response) :
    runSteps (d.length + n) ⟨g, presented (d.map .rsPush) ++ rest, rsps⟩ =
      runSteps n ⟨{ g with r := d.foldl rsStep g.r, cnt := g.cnt + BitVec.ofNat 5 d.length }, rest,
        rsps ++ d.map fun b => ⟨false, zext32 b⟩⟩ := by
  induction d generalizing g rsps with
  | nil => simp
  | cons b d ih =>
    rw [List.length_cons] at hcnt
    have hsucc := cnt_succ_toNat (cnt := g.cnt) (by omega)
    rw [List.length_cons, Nat.add_right_comm]
    refine (runSteps_succ_of_presented
      (exec_rsPush_of_lt (s := ⟨g, _, rsps⟩) hg b (by change g.cnt.toNat < 16; omega)) _).trans ?_
    refine (ih (g := { g with r := rsStep g.r b, cnt := g.cnt + 1 }) hg
      (by change (g.cnt + 1).toNat + d.length ≤ 16; omega) _).trans ?_
    simp only [cnt_add_succ, List.foldl_cons, List.map_cons, List.append_assoc, List.singleton_append]

/-- `RS.POP` `m` times, with `m` or more codewords left. -/
theorem runSteps_of_presented_pops (m : Nat) (rest : List PortEvent) (n : Nat) {g : Regs} {k : Nat}
    (hg : g.cause = 0) (hcnt : g.cnt.toNat = 16 + k) (hm : k + m ≤ 10) (rsps : List Response) :
    runSteps (m + n) ⟨g, presented (List.replicate m .rsPop) ++ rest, rsps⟩ =
      runSteps n ⟨{ g with cnt := g.cnt + BitVec.ofNat 5 m }, rest,
        rsps ++ ((g.r.toList.drop k).take m).map fun c => ⟨false, zext32 c⟩⟩ := by
  induction m generalizing g k rsps with
  | zero => simp
  | succ m ih =>
    have hsucc := cnt_succ_toNat (cnt := g.cnt) (by omega)
    have hk : k < g.r.toList.length := by rw [g.r.length_toList]; omega
    rw [Nat.add_right_comm]
    refine (runSteps_succ_of_presented
      (exec_rsPop_of_eq_add (s := ⟨g, _, rsps⟩) hg (k := k) (by omega) hcnt) _).trans ?_
    refine (ih (g := { g with cnt := g.cnt + 1 }) (k := k + 1) hg (hsucc.trans (by omega))
      (by omega) _).trans ?_
    rw [List.drop_eq_getElem_cons hk]
    simp only [cnt_add_succ, List.take_succ_cons, List.map_cons, List.append_assoc,
      List.singleton_append, Vector.getElem_toList]

end Sys2Proof.Machine

namespace Sys2Proof

open Sys2Proof.Machine

/-- Settles O24: the run is `RS.INIT`, 16 pushes from `CNT = 0` and 10 pops from `CNT = 16`; what they
answer behind the first is the data and the register, which is `rs_ec` (O22). -/
theorem frameYieldsTheStream : Obligations.FrameYieldsTheStream := by
  rintro ⟨g, inbox, rsps⟩ d rest hg hin
  change g.cause = 0 at hg
  obtain rfl : inbox = .command (encode .rsInit) :: (presented (d.toList.map .rsPush) ++
      (presented (List.replicate 10 .rsPop) ++ rest)) := by
    simpa [expand] using hin
  have hlength : d.toList.length = 16 := d.length_toList
  have hno : ∀ r cnt, { g with r := r, cnt := cnt }.cause = 0 := fun _ _ => hg
  calc runSteps 27 _
      = runSteps (d.toList.length + 10) ⟨{ g with r := zeroRemainder, cnt := 0 },
          presented (d.toList.map .rsPush) ++ (presented (List.replicate 10 .rsPop) ++ rest),
          rsps ++ [⟨false, 0⟩]⟩ := by
        rw [hlength]
        exact runSteps_succ_of_presented (exec_rsInit_of_noFault (s := ⟨g, _, rsps⟩) hg) 26
    _ = runSteps 10 ⟨{ g with r := rsRemainder d.toList, cnt := 16 },
          presented (List.replicate 10 .rsPop) ++ rest,
          rsps ++ [⟨false, 0⟩] ++ d.toList.map fun b => ⟨false, zext32 b⟩⟩ := by
        rw [runSteps_of_presented_pushes _ _ _ (hno _ _) (by simp), hlength]
        rfl
    _ = .next ⟨{ g with r := rsRemainder d.toList, cnt := 26 }, rest,
          rsps ++ [⟨false, 0⟩] ++ (d.toList.map fun b => ⟨false, zext32 b⟩) ++
            (rsEc d).map fun c => ⟨false, zext32 c⟩⟩ := by
        rw [runSteps_of_presented_pops (k := 0) 10 rest 0 (hno _ _) rfl (by decide)]
        simp [rsEc_eq, runSteps]
    _ = _ := by simp [rsStream, zext32]

end Sys2Proof
end

section
/-! PROOF. The invariant of the registers (spec/10_state.md R34). A performed command keeps it unit by unit,
a raised fault writes `CAUSE` and `BADCMD` together, and a refused command writes nothing; the bytes pushed
in the frame are followed through the same three cases. -/

namespace Sys2Proof.Machine

/-! ### The frame -/

theorem frameHolds_reset : FrameHolds [] Regs.reset := ⟨by decide, by decide, rfl⟩

/-- An unfilled frame takes one more byte. -/
theorem FrameHolds.push {d : List Byte} {g : Regs} (h : FrameHolds d g) (b : Byte)
    (hcnt : g.cnt.toNat < 16) : FrameHolds (d ++ [b]) (performedRegs (.rsPush b) g) := by
  have hsucc := cnt_succ_toNat (cnt := g.cnt) (by omega)
  have hlength := h.length
  refine ⟨hsucc.trans_le (by omega), ?_, ?_⟩
  · rw [List.length_append, List.length_singleton, performedRegs, hsucc]
    omega
  · rw [rsRemainder_append_singleton, ← h.remainder, performedRegs]

/-- A filled frame delivers one more codeword; its bytes stay. -/
theorem FrameHolds.pop {d : List Byte} {g : Regs} (h : FrameHolds d g) (hge : 16 ≤ g.cnt.toNat)
    (hlt : g.cnt.toNat < 26) : FrameHolds d (performedRegs .rsPop g) := by
  have hsucc := cnt_succ_toNat hlt
  have hlength := h.length
  refine ⟨hsucc.trans_le (by omega), ?_, h.remainder⟩
  rw [performedRegs, hsucc]
  omega

theorem FrameHolds.performed {i : Instr} {d : List Byte} {g : Regs} (h : FrameHolds d g)
    (hraises : commandRaises i g = none) (hg : g.cause = 0 ∨ PerformedInFault i) :
    FrameHolds (pushedBy i g d) (performedRegs i g) := by
  have hcause (hi : ¬ PerformedInFault i) : g.cause = 0 := hg.resolve_right hi
  cases i with
  | sysReset => exact frameHolds_reset
  | rsInit =>
    rw [pushedBy, if_pos (hcause (by simp [PerformedInFault]))]
    exact ⟨by simp [performedRegs], by simp [performedRegs], rfl⟩
  | rsPush b =>
    have hcnt := commandRaises_rsPush_eq_none_iff.1 hraises
    rw [pushedBy, if_pos ⟨hcause (by simp [PerformedInFault]), hcnt⟩]
    exact h.push b hcnt
  | rsPop =>
    obtain ⟨hge, hlt⟩ := commandRaises_rsPop_eq_none_iff.1 hraises
    exact h.pop hge hlt
  | sysNop | sysStat | bchEnc | bchRd | crcInit | crcByte | crcRd | adlInit | adlByte | adlRd =>
    exact ⟨h.cnt_le, h.length, h.remainder⟩

/-- A command that raises a fault or is refused pushes nothing. -/
theorem pushedBy_of_raises {i : Instr} {g : Regs} {c : Cause} (h : commandRaises i g = some c)
    (d : List Byte) : pushedBy i g d = d := by
  obtain ⟨-, ⟨b, rfl⟩, hcnt⟩ | ⟨-, rfl, -⟩ | ⟨-, rfl, -⟩ := commandRaises_eq_some_iff.1 h
  · exact if_neg fun hcond => hcnt.not_gt hcond.2
  · rfl
  · rfl

theorem pushedBy_of_fault {i : Instr} {g : Regs} (hg : g.cause ≠ 0) (hi : ¬ PerformedInFault i)
    (d : List Byte) : pushedBy i g d = d := by
  cases i with
  | sysReset => exact absurd (.inl rfl) hi
  | rsInit => exact if_neg hg
  | rsPush b => exact if_neg fun hcond => hg hcond.1
  | sysNop | sysStat | rsPop | bchEnc | bchRd | crcInit | crcByte | crcRd | adlInit | adlByte | adlRd =>
    rfl

theorem FrameHolds.exec {i : Instr} {s t : State} {d : List Byte} (h : FrameHolds d s.regs)
    (hexec : Machine.exec i s = .next t) : FrameHolds (pushedBy i s.regs d) t.regs := by
  obtain ⟨hraises, hs, rfl⟩ | ⟨c, hs, hraises, rfl⟩ | ⟨hs, hi, rfl⟩ := exec_cases hexec
  · exact h.performed hraises hs
  · rw [pushedBy_of_raises hraises]
    exact ⟨h.cnt_le, h.length, h.remainder⟩
  · rw [pushedBy_of_fault hs hi]
    exact h

/-- An illegal word writes `CAUSE` and `BADCMD`, or nothing. -/
theorem FrameHolds.performIllegal {w : Word16} {s t : State} {d : List Byte} (h : FrameHolds d s.regs)
    (hperform : Machine.performIllegal w s = .next t) : FrameHolds d t.regs := by
  obtain ⟨hs, hnext⟩ | ⟨hs, rfl⟩ := whenNoFault_next hperform
  · obtain rfl := Host.Outcome.next.inj hnext
    exact ⟨h.cnt_le, h.length, h.remainder⟩
  · exact h

theorem pushedAfter_of_ok {s : State} {w : Word16} {rest : List PortEvent} {i : Instr}
    (hin : s.inbox = .command w :: rest) (hd : decode w = .ok i) (d : List Byte) :
    pushedAfter s d = pushedBy i s.regs d := by
  simp only [pushedAfter, hin, hd]

theorem pushedAfter_of_error {s : State} {w : Word16} {rest : List PortEvent} {e : IllegalReason}
    (hin : s.inbox = .command w :: rest) (hd : decode w = .error e) (d : List Byte) :
    pushedAfter s d = d := by
  simp only [pushedAfter, hin, hd]

theorem FrameHolds.step {s t : State} {d : List Byte} (h : FrameHolds d s.regs)
    (hstep : Machine.step s = .next t) : FrameHolds (pushedAfter s d) t.regs := by
  obtain ⟨w, rest, hin, hperform⟩ | ⟨rest, hin, rfl⟩ | ⟨rest, hin, rfl⟩ | ⟨hin, rfl⟩ := step_cases hstep
  case inl =>
    cases hd : decode w with
    | ok i =>
      rw [performWord_of_ok hd] at hperform
      rw [pushedAfter_of_ok hin hd]
      exact FrameHolds.exec (s := s.setInbox rest) h hperform
    | error e =>
      rw [performWord_of_error hd] at hperform
      rw [pushedAfter_of_error hin hd]
      exact FrameHolds.performIllegal (s := s.setInbox rest) h hperform
  · simp only [pushedAfter, hin]
    exact frameHolds_reset
  · simpa only [pushedAfter, hin] using h
  · simpa only [pushedAfter, hin] using h

/-! ### The other clauses -/

theorem adlerStep_lt (sums : Word16 × Word16) (b : Byte) :
    (adlerStep sums b).1.toNat < adlerMod ∧ (adlerStep sums b).2.toNat < adlerMod := by
  rw [adlerStep_fst_toNat, adlerStep_snd_toNat]
  exact ⟨Nat.mod_lt _ (by decide), Nat.mod_lt _ (by decide)⟩

theorem Regs.inv_reset : Regs.reset.Inv where
  frame := ⟨[], frameHolds_reset⟩
  a_lt := by decide
  b_lt := by decide
  fmt_word := .inl rfl
  cause_le := by decide
  badcmd_zero := by decide

theorem Regs.Inv.performed {i : Instr} {g : Regs} (h : g.Inv) (hraises : commandRaises i g = none)
    (hg : g.cause = 0 ∨ PerformedInFault i) : (performedRegs i g).Inv := by
  obtain ⟨d, hframe⟩ := h.frame
  have hframe' : ∃ d', FrameHolds d' (performedRegs i g) := ⟨_, hframe.performed hraises hg⟩
  cases i with
  | sysReset => exact Regs.inv_reset
  | bchEnc d => exact { h with frame := hframe', fmt_word := .inr ⟨d, rfl⟩ }
  | adlInit =>
    exact { h with frame := hframe', a_lt := Regs.inv_reset.a_lt, b_lt := Regs.inv_reset.b_lt }
  | adlByte b =>
    exact { h with
      frame := hframe', a_lt := (adlerStep_lt _ b).1, b_lt := (adlerStep_lt _ b).2 }
  | sysNop | sysStat | rsInit | rsPush | rsPop | bchRd | crcInit | crcByte | crcRd | adlRd =>
    exact { h with frame := hframe' }

/-- Fault entry keeps the invariant, since the word that raises a fault is not 0. -/
theorem Regs.Inv.raised {g : Regs} (h : g.Inv) (c : Cause) {w : Word16} (hw : w ≠ 0) :
    Regs.Inv { g with cause := c.code, badcmd := w } := by
  obtain ⟨d, hframe⟩ := h.frame
  exact { h with
    frame := ⟨d, hframe.cnt_le, hframe.length, hframe.remainder⟩
    cause_le := c.code_range.2
    badcmd_zero := iff_of_false c.code_ne_zero hw }

/-- The word 0 is `SYS.NOP`, which raises no fault. -/
theorem word_ne_zero_of_raises {w : Word16} {g : Regs} {c : Cause} (h : wordRaises w g = some c) :
    w ≠ 0 := by
  rintro rfl
  have hnone : wordRaises 0 g = none := wordRaises_of_ok (decode_encode .sysNop) g
  exact Option.some_ne_none c (h.symm.trans hnone)

theorem State.Inv.exec {i : Instr} {s t : State} (h : s.Inv) (hexec : Machine.exec i s = .next t) :
    t.Inv := by
  obtain ⟨hraises, hs, rfl⟩ | ⟨c, -, hraises, rfl⟩ | ⟨-, -, rfl⟩ := exec_cases hexec
  · exact Regs.Inv.performed h hraises hs
  · rw [← wordRaises_of_ok (decode_encode i)] at hraises
    exact Regs.Inv.raised h c (word_ne_zero_of_raises hraises)
  · exact h

theorem State.Inv.performIllegal {w : Word16} {e : IllegalReason} {s t : State} (h : s.Inv)
    (hd : decode w = .error e) (hperform : Machine.performIllegal w s = .next t) : t.Inv := by
  obtain ⟨-, hnext⟩ | ⟨-, rfl⟩ := whenNoFault_next hperform
  · obtain rfl := Host.Outcome.next.inj hnext
    exact Regs.Inv.raised h .illegal (word_ne_zero_of_raises (wordRaises_of_error hd s.regs))
  · exact h

theorem State.Inv.step {s t : State} (h : s.Inv) (hstep : Machine.step s = .next t) : t.Inv := by
  obtain ⟨w, rest, hin, hperform⟩ | ⟨rest, hin, rfl⟩ | ⟨rest, hin, rfl⟩ | ⟨hin, rfl⟩ := step_cases hstep
  case inl =>
    cases hd : decode w with
    | ok i =>
      rw [performWord_of_ok hd] at hperform
      exact State.Inv.exec (s := s.setInbox rest) h hperform
    | error e =>
      rw [performWord_of_error hd] at hperform
      exact State.Inv.performIllegal (s := s.setInbox rest) h hd hperform
  · exact Regs.inv_reset
  · exact h
  · exact h

/-- The invariant, and the bytes pushed in the frame, along a run. -/
theorem State.Inv.run {n : Nat} {s t : State} {d : List Byte} (h : s.Inv) (hframe : FrameHolds d s.regs)
    (hrun : runSteps n s = .next t) : t.Inv ∧ FrameHolds (pushedDuring n s d) t.regs := by
  induction n generalizing s d with
  | zero =>
    obtain rfl := Host.Outcome.next.inj hrun
    exact ⟨h, hframe⟩
  | succ n ih =>
    obtain ⟨s', hstep, -⟩ := step_answers s
    rw [runSteps_succ_of_step hstep] at hrun
    rw [pushedDuring_succ_of_step hstep]
    exact ih (h.step hstep) (hframe.step hstep) hrun

/-- R34 (e): an empty frame has the zero remainder. -/
theorem FrameHolds.r_eq_zero {d : List Byte} {g : Regs} (h : FrameHolds d g) (hcnt : g.cnt = 0)
    (j : Fin 10) : g.r[j] = 0 := by
  have hlength : d.length = 0 := by rw [h.length, hcnt]; rfl
  rw [h.remainder, List.eq_nil_of_length_eq_zero hlength]
  exact Vector.getElem_replicate j.isLt

/-- R34 (f): a full frame has the EC codewords of its 16 bytes. -/
theorem FrameHolds.r_eq_rsEc {d : List Byte} {g : Regs} (h : FrameHolds d g) (hcnt : 16 ≤ g.cnt.toNat) :
    ∃ v : Vector Byte 16, v.toList = d ∧ g.r.toList = rsEc v := by
  have hlength : d.length = 16 := h.length.trans (Nat.min_eq_right hcnt)
  refine ⟨⟨d.toArray, hlength⟩, rfl, ?_⟩
  rw [rsEc_eq, h.remainder]
  rfl

end Sys2Proof.Machine

namespace Sys2Proof

open Sys2Proof.Machine

/-- Settles O57: every event keeps every clause. -/
theorem everyStepKeepsTheInvariant : Obligations.EveryStepKeepsTheInvariant := fun _ _ => State.Inv.step

/-- Settles O23: an accepted push adds its byte to the remainder, and no other event but a reset and
`RS.INIT` writes `R`. -/
theorem remainderRegisterFollowsTheFrame : Obligations.RemainderRegisterFollowsTheFrame :=
  fun _ _ _ => FrameHolds.step

/-- Settles O56: the empty frame has the zero remainder, and the other clauses are about numbers. -/
theorem invariantHoldsAtReset : Obligations.InvariantHoldsAtReset := Regs.inv_reset

/-- Settles O58: the invariant holds at reset and every step keeps it, and so do the bytes pushed; R34's
clauses about `R` follow from those bytes. -/
theorem reachableStatesAreAsR34Says : Obligations.ReachableStatesAreAsR34Says := by
  rintro events n t d hrun rfl
  have hreset : State.Inv { State.reset with inbox := events } := Regs.inv_reset
  obtain ⟨hinv, hframe⟩ := hreset.run frameHolds_reset hrun
  exact ⟨hframe.cnt_le, Nat.le_of_lt_succ hinv.a_lt, Nat.le_of_lt_succ hinv.b_lt, hinv.fmt_word,
    hinv.cause_le, hinv.badcmd_zero, hframe, hframe.r_eq_zero, hframe.r_eq_rsEc⟩

end Sys2Proof
end

section
/-! PROOF. The Adler-32 of a message (spec/44_adler32.md R205): the run that computes it, and the two sums in
closed form. The sums are reduced at each byte, so they are compared with the closed form as residues
modulo 65521. -/

namespace Sys2Proof.Machine

theorem foldl_performedRegs_adlByte (message : List Byte) (g : Regs) :
    message.foldl (fun g b => performedRegs (.adlByte b) g) g =
      { g with
        a := (message.foldl adlerStep (g.a, g.b)).1
        b := (message.foldl adlerStep (g.a, g.b)).2 } :=
  List.foldl_hom (fun sums : Word16 × Word16 => { g with a := sums.1, b := sums.2 })
    (init := (g.a, g.b)) (fun _ _ => rfl)

theorem runSteps_of_presented_adlBytes (message : List Byte) (rest : List PortEvent) (n : Nat)
    {g : Regs} (hg : g.cause = 0) (rsps : List Response) :
    runSteps (message.length + n) ⟨g, presented (message.map .adlByte) ++ rest, rsps⟩ =
      runSteps n ⟨{ g with
          a := (message.foldl adlerStep (g.a, g.b)).1
          b := (message.foldl adlerStep (g.a, g.b)).2 }, rest,
        rsps ++ List.replicate message.length ⟨false, 0⟩⟩ := by
  rw [← foldl_performedRegs_adlByte]
  exact runSteps_of_presented_bytes (update := fun g b => performedRegs (.adlByte b) g)
    (fun _ _ => rfl) (fun _ b hs => exec_adlByte_of_noFault hs b) message rest n g hg rsps

theorem adlerStep_fst_cast (a b : Word16) (x : Byte) :
    ((adlerStep (a, b) x).1.toNat : ZMod 65521) = a.toNat + x.toNat := by
  rw [adlerStep_fst_toNat, ZMod.natCast_mod, Nat.cast_add]

theorem adlerStep_snd_cast (a b : Word16) (x : Byte) :
    ((adlerStep (a, b) x).2.toNat : ZMod 65521) = b.toNat + (a.toNat + x.toNat) := by
  rw [adlerStep_snd_toNat, ZMod.natCast_mod, Nat.cast_add, adlerStep_fst_cast]

/-- The sum of the bytes, each as often as there are bytes from it on. -/
def weightedSum (message : List Byte) : Nat :=
  (message.zipIdx.map fun p => (message.length - p.2) * p.1.toNat).sum

theorem weightedSum_cons (x : Byte) (message : List Byte) :
    weightedSum (x :: message) = (message.length + 1) * x.toNat + weightedSum message := by
  simp [weightedSum, List.zipIdx_succ, Function.comp_def]

/-- The sums after a message as residues, from any sums before it. -/
theorem foldl_adlerStep_cast (message : List Byte) (a b : Word16) :
    ((message.foldl adlerStep (a, b)).1.toNat : ZMod 65521) =
        a.toNat + (message.map (·.toNat)).sum ∧
      ((message.foldl adlerStep (a, b)).2.toNat : ZMod 65521) =
        b.toNat + message.length * a.toNat + weightedSum message := by
  induction message generalizing a b with
  | nil => simp [weightedSum]
  | cons x message ih =>
    obtain ⟨ihA, ihB⟩ := ih (adlerStep (a, b) x).1 (adlerStep (a, b) x).2
    rw [List.foldl_cons]
    constructor
    · rw [ihA, adlerStep_fst_cast, List.map_cons, List.sum_cons, Nat.cast_add, add_assoc]
    · rw [ihB, adlerStep_fst_cast, adlerStep_snd_cast, weightedSum_cons, List.length_cons]
      push_cast
      ring

theorem foldl_adlerStep_lt (message : List Byte) {sums : Word16 × Word16}
    (h : sums.1.toNat < adlerMod ∧ sums.2.toNat < adlerMod) :
    (message.foldl adlerStep sums).1.toNat < adlerMod ∧
      (message.foldl adlerStep sums).2.toNat < adlerMod := by
  induction message generalizing sums with
  | nil => exact h
  | cons x message ih => exact ih (adlerStep_lt sums x)

/-- A number below the modulus is the remainder of every number of its residue. -/
theorem eq_mod_of_cast_eq {n m : Nat} (hn : n < 65521) (h : (n : ZMod 65521) = m) : n = m % 65521 := by
  rw [← (ZMod.natCast_eq_natCast_iff' n m 65521).1 h, Nat.mod_eq_of_lt hn]

/-- Below twice the modulus a remainder needs at most one subtraction. -/
theorem mod_eq_ite {n m : Nat} (h : n < 2 * m) : n % m = if n < m then n else n - m := by
  split_ifs with hlt
  · exact Nat.mod_eq_of_lt hlt
  · rw [Nat.mod_eq_sub_mod (by omega), Nat.mod_eq_of_lt (by omega)]

end Sys2Proof.Machine

namespace Sys2Proof

open Sys2Proof.Machine

/-- Settles O43: the run is `ADL.INIT`, the message's bytes folded into the sums, and `ADL.RD`; none of them
enters the fault state. -/
theorem adlerMessageYieldsItsChecksum : Obligations.AdlerMessageYieldsItsChecksum := by
  rintro ⟨g, inbox, rsps⟩ message rest hg hin
  obtain rfl : inbox = .command (encode .adlInit) ::
      (presented (message.map .adlByte) ++ .command (encode .adlRd) :: rest) := by
    simpa [expand] using hin
  change g.cause = 0 at hg
  obtain ⟨a, b, hsums⟩ : ∃ a b, message.foldl adlerStep (1, 0) = (a, b) := ⟨_, _, rfl⟩
  refine ⟨a, b, hsums, ?_⟩
  calc runSteps (message.length + 2) _
      = runSteps (message.length + 1) ⟨{ g with a := 1, b := 0 },
          presented (message.map .adlByte) ++ .command (encode .adlRd) :: rest,
          rsps ++ [⟨false, 0⟩]⟩ :=
        runSteps_succ_of_presented (exec_adlInit_of_noFault (s := ⟨g, _, rsps⟩) hg) _
    _ = runSteps 1 ⟨{ g with a := a, b := b }, .command (encode .adlRd) :: rest,
          rsps ++ [⟨false, 0⟩] ++ List.replicate message.length ⟨false, 0⟩⟩ := by
        rw [runSteps_of_presented_adlBytes message _ 1 (g := { g with a := 1, b := 0 }) hg, hsums]
    _ = .next ⟨{ g with a := a, b := b }, rest,
          rsps ++ [⟨false, 0⟩] ++ List.replicate message.length ⟨false, 0⟩ ++ [⟨false, b ++ a⟩]⟩ :=
        runSteps_succ_of_presented
          (exec_adlRd_of_noFault (s := ⟨{ g with a := a, b := b }, _, _⟩) hg) 0
    _ = _ := by simp [List.replicate_succ]

/-- Settles O44: the closed forms are the sums' residues, and the sums are below the modulus. -/
theorem adlerSumsHaveTheClosedForm : Obligations.AdlerSumsHaveTheClosedForm := by
  intro message
  obtain ⟨hA, hB⟩ := foldl_adlerStep_cast message 1 0
  obtain ⟨hltA, hltB⟩ := foldl_adlerStep_lt message (sums := (1, 0)) (by decide)
  refine ⟨eq_mod_of_cast_eq hltA ?_, eq_mod_of_cast_eq hltB ?_⟩
  · rw [hA]
    simp
  · rw [hB]
    simp [weightedSum]

/-- Settles O45: both sums are below twice the modulus. -/
theorem adlerReductionIsOneSubtraction : Obligations.AdlerReductionIsOneSubtraction := by
  intro a b x ha hb
  obtain ⟨hltA, hltB⟩ := adlerStep_lt (a, b) x
  have hA : (adlerStep (a, b) x).1.toNat ≤ 65520 := Nat.le_of_lt_succ hltA
  refine ⟨_, _, rfl, hA, Nat.le_of_lt_succ hltB, ?_, ?_⟩
  · exact (adlerStep_fst_toNat a b x).trans (mod_eq_ite (by omega))
  · exact (adlerStep_snd_toNat a b x).trans (mod_eq_ite (by omega))

end Sys2Proof
end

section
/-! PROOF. The table form of the CRC byte step (spec/43_crc32.md R181). A shift is linear, and shifts out
nothing of a register whose lowest bit is 0; so eight shifts of the register are those of its low byte,
and the other bits moved down. -/

namespace Sys2Proof.Machine

theorem crcShift_eq (c : Word32) :
    crcShift c = (c >>> 1) ^^^ (if c.getLsbD 0 then crcPoly else 0) := by
  unfold crcShift
  split_ifs
  · rfl
  · exact BitVec.xor_zero.symm

theorem crcShift_xor (c d : Word32) : crcShift (c ^^^ d) = crcShift c ^^^ crcShift d := by
  have poly (x y : Bool) :
      (if x ^^ y then crcPoly else 0) = (if x then crcPoly else 0) ^^^ (if y then crcPoly else 0) := by
    cases x <;> cases y <;> simp
  simp only [crcShift_eq, BitVec.getLsbD_xor, poly, BitVec.ushiftRight_xor_distrib]
  ac_rfl

theorem repeat_crcShift_xor (n : Nat) (c d : Word32) :
    Nat.repeat crcShift n (c ^^^ d) = Nat.repeat crcShift n c ^^^ Nat.repeat crcShift n d := by
  induction n with
  | zero => rfl
  | succ n ih => rw [Nat.repeat, ih, crcShift_xor, Nat.repeat, Nat.repeat]

/-- Low bits that are 0 are shifted out without a trace of the polynomial. -/
theorem repeat_crcShift_of_low_zero {n : Nat} {c : Word32} (h : ∀ i < n, c.getLsbD i = false) :
    Nat.repeat crcShift n c = c >>> n := by
  induction n with
  | zero => rfl
  | succ n ih =>
    have hbit : (c >>> n).getLsbD 0 = false := by
      rw [BitVec.getLsbD_ushiftRight]
      exact h n (Nat.lt_succ_self n)
    rw [Nat.repeat, ih fun i hi => h i (Nat.lt_succ_of_lt hi), crcShift, hbit, if_neg Bool.false_ne_true,
      BitVec.shiftRight_add]

theorem xor_zext32_byte_ushiftRight (c : Word32) (b : Byte) : (c ^^^ zext32 b) >>> 8 = c >>> 8 := by
  have hbyte : zext32 b >>> 8 = 0#32 := by
    apply BitVec.eq_of_getLsbD_eq
    intro i _
    simp [zext32]
  rw [BitVec.ushiftRight_xor_distrib, hbyte, BitVec.xor_zero]

/-- Eight shifts work on the low byte, and move the other bits down. -/
theorem repeat_crcShift_eight (c : Word32) :
    Nat.repeat crcShift 8 c = crcStep 0 (c.setWidth 8) ^^^ (c >>> 8) := by
  have hrest (i : Nat) (hi : i < 8) :
      (c ^^^ zext32 (c.setWidth 8 : Byte)).getLsbD i = false := by
    simp [zext32, hi, show i < 32 by omega]
  have hsplit : zext32 (c.setWidth 8 : Byte) ^^^ (c ^^^ zext32 (c.setWidth 8 : Byte)) = c := by
    rw [BitVec.xor_comm, BitVec.xor_assoc, BitVec.xor_self, BitVec.xor_zero]
  have hstep : crcStep 0 (c.setWidth 8) = Nat.repeat crcShift 8 (zext32 (c.setWidth 8 : Byte)) :=
    congrArg (Nat.repeat crcShift 8) BitVec.zero_xor
  rw [hstep, ← congrArg (Nat.repeat crcShift 8) hsplit, repeat_crcShift_xor,
    repeat_crcShift_of_low_zero hrest, xor_zext32_byte_ushiftRight]

end Sys2Proof.Machine

namespace Sys2Proof

open Sys2Proof.Machine

/-- Settles O38: the byte reaches only the low byte of the register, so the bits moved down are those of
`CRC` alone. -/
theorem crcTableFormAgrees : Obligations.CrcTableFormAgrees := by
  intro c b
  rw [← xor_zext32_byte_ushiftRight c b]
  exact repeat_crcShift_eight (c ^^^ zext32 b)

end Sys2Proof
end

section
/-! PROOF. The format words (spec/42_bch.md R165, R166). The remainder is linear in the data, so the words
without their mask are a linear code. -/

namespace Sys2Proof.Machine

theorem bchRound_xor (v w : BitVec 15) (i : Nat) :
    bchRound (v ^^^ w) i = bchRound v i ^^^ bchRound w i := by
  have round (x : Bool) (v g : BitVec 15) :
      (if x then v ^^^ g else v) = v ^^^ (if x then g else 0) := by
    cases x <;> simp
  have term (x y : Bool) (g : BitVec 15) :
      (if x ^^ y then g else 0) = (if x then g else 0) ^^^ (if y then g else 0) := by
    cases x <;> cases y <;> simp
  simp only [bchRound, round, BitVec.getLsbD_xor, term]
  ac_rfl

theorem bchReduce_xor (v w : BitVec 15) : bchReduce (v ^^^ w) = bchReduce v ^^^ bchReduce w := by
  simp only [bchReduce, List.foldl_cons, List.foldl_nil, bchRound_xor]

theorem bchRem_xor (d e : BitVec 5) : bchRem (d ^^^ e) = bchRem d ^^^ bchRem e := by
  rw [bchRem, BitVec.setWidth_xor, BitVec.shiftLeft_xor_distrib, bchReduce_xor, BitVec.extractLsb'_xor]
  rfl

/-- Undoing the mask leaves the data and its remainder. -/
theorem fmtWord_xor_mask (d : BitVec 5) : fmtWord d ^^^ 0x5412 = d ++ bchRem d := by
  rw [fmtWord_eq, BitVec.xor_assoc, BitVec.xor_self, BitVec.xor_zero]

theorem fmtWord_data (d : BitVec 5) : (fmtWord d ^^^ 0x5412).extractLsb' 10 5 = d := by
  rw [fmtWord_xor_mask, BitVec.extractLsb'_append_eq_of_le (by decide), BitVec.extractLsb'_eq_self]

end Sys2Proof.Machine

namespace Sys2Proof

open Sys2Proof.Machine

/-- Settles O33: the 32 operands, one by one. -/
theorem formatWordsAreTheListed : Obligations.FormatWordsAreTheListed :=
  ⟨by decide +kernel, by decide +kernel⟩

/-- Settles O34: linearity by the remainder's; the weights, and the multiples of the generator, over the 32
operands; the data that come back tell format words apart. -/
theorem formatWordsFormAMaskedLinearCode : Obligations.FormatWordsFormAMaskedLinearCode := by
  refine ⟨fmtWord_data, by decide +kernel, fun d e => ?linear, by decide +kernel, by decide +kernel,
    fun d e h => ?distinct⟩
  case linear => rw [fmtWord_xor_mask, fmtWord_xor_mask, fmtWord_xor_mask, bchRem_xor, BitVec.xor_append]
  case distinct => rw [← fmtWord_data d, h, fmtWord_data e]

end Sys2Proof
end

section
/-! PROOF. The assembler (spec/30_encoding.md R78). A line spelled by the listing is one word, or two with a
space between them; no word has a space or a character that starts a comment or a quotation, and decimal
digits denote the number they were made of. -/

namespace Sys2Proof.Machine

/-- A character that has no meaning of its own to the assembler. -/
abbrev IsPlain (c : Char) : Prop := c ≠ ' ' ∧ c ≠ ';' ∧ c ≠ '\''

theorem isPlain_of_isDigit {c : Char} (h : c.isDigit = true) : IsPlain c := by
  refine ⟨?_, ?_, ?_⟩
  all_goals
    rintro rfl
    exact absurd h (by decide)

theorem beforeComment_eq_self {line : List Char} (h : ∀ c ∈ line, c ≠ ';' ∧ c ≠ '\'') :
    beforeComment line = line := by
  induction line with
  | nil => rfl
  | cons c line ih =>
    obtain ⟨⟨hcomment, hquote⟩, hline⟩ := List.forall_mem_cons.1 h
    rw [beforeComment, ih hline]
    · exact fun _ _ hc => absurd hc hquote
    · exact hcomment

/-- A line that ends with a plain character and has no comment and no quotation is all code. -/
theorem dropComment_append_singleton {line : List Char} {c : Char} (hc : IsPlain c)
    (h : ∀ c ∈ line, c ≠ ';' ∧ c ≠ '\'') : dropComment (line ++ [c]) = line ++ [c] := by
  rw [dropComment, beforeComment_eq_self (List.forall_mem_append.2 ⟨h, by simpa using hc.2⟩),
    List.reverse_append, List.reverse_singleton, List.singleton_append,
    List.dropWhile_cons_of_neg (by simpa using hc.1), List.reverse_cons, List.reverse_reverse]

/-- A line of two words is a mnemonic and its operand. -/
theorem assemble_two_words {mnemonic operand : List Char} (hmnemonic : ∀ c ∈ mnemonic, IsPlain c)
    (hoperand : ∀ c ∈ operand, IsPlain c) (hne : operand ≠ []) :
    assemble (mnemonic ++ ' ' :: operand) = assembleOperand (String.ofList mnemonic) operand := by
  have hcode : dropComment (mnemonic ++ ' ' :: operand) = mnemonic ++ ' ' :: operand := by
    have hsplit : mnemonic ++ ' ' :: operand =
        (mnemonic ++ ' ' :: operand.dropLast) ++ [operand.getLast hne] := by
      rw [List.append_assoc, List.cons_append, List.dropLast_append_getLast]
    rw [hsplit]
    refine dropComment_append_singleton (hoperand _ (List.getLast_mem hne)) fun c hc => ?_
    obtain hc | rfl | hc := by simpa using hc
    · exact (hmnemonic c hc).2
    · decide
    · exact (hoperand c (List.mem_of_mem_dropLast hc)).2
  have hword : ∀ c ∈ mnemonic, decide (c ≠ ' ') = true := fun c hc => decide_eq_true (hmnemonic c hc).1
  simp only [assemble, hcode, List.takeWhile_append_of_pos hword, List.dropWhile_append_of_pos hword]
  simp

theorem digitValue_of_isDigit {c : Char} (h : c.isDigit = true) :
    digitValue c = c.toNat - '0'.toNat ∧ digitValue c < 10 := by
  have hrange : '0' ≤ c ∧ c ≤ '9' := by simpa [Char.isDigit, Char.le_def] using h
  have hle : c.toNat ≤ 57 := UInt32.le_iff_toNat_le.1 hrange.2
  rw [digitValue, if_pos hrange]
  exact ⟨rfl, show c.toNat - 48 < 10 by omega⟩

theorem isDigit_of_mem_toDigits {n : Nat} {c : Char} (h : c ∈ Nat.toDigits 10 n) : c.isDigit = true :=
  Nat.isDigit_of_mem_toDigits (by decide) le_rfl h

theorem readDigits_toDigits (n : Nat) : readDigits 10 (Nat.toDigits 10 n) = some n := by
  have hdigit (c) (hc : c ∈ Nat.toDigits 10 n) := digitValue_of_isDigit (isDigit_of_mem_toDigits hc)
  have hvalid : ¬ ((Nat.toDigits 10 n).isEmpty || (Nat.toDigits 10 n).any (10 ≤ digitValue ·)) := by
    simpa using fun c hc => (hdigit c hc).2
  have hvalue : (Nat.toDigits 10 n).foldl (fun n c => n * 10 + digitValue c) 0 =
      Nat.ofDigitChars 10 (Nat.toDigits 10 n) 0 :=
    List.foldl_ext _ _ _ fun acc c hc => by rw [(hdigit c hc).1, Nat.mul_comm]
  rw [readDigits, if_neg hvalid, hvalue, Nat.ofDigitChars_toDigits (by decide) le_rfl]

theorem readNumber_toDigits (n : Nat) : readNumber (Nat.toDigits 10 n) = some n := by
  have hdigit {c : Char} (hc : c ∈ Nat.toDigits 10 n) : c.isDigit = true := isDigit_of_mem_toDigits hc
  rw [← readDigits_toDigits n]
  unfold readNumber
  split
  case h_1 heq => exact absurd (hdigit (heq ▸ by simp : 'x' ∈ Nat.toDigits 10 n)) (by decide)
  case h_2 heq => exact absurd (hdigit (heq ▸ by simp : 'b' ∈ Nat.toDigits 10 n)) (by decide)
  case h_3 => rfl

theorem readByte_toDigits (b : Byte) : readByte (Nat.toDigits 10 b.toNat) = some b := by
  unfold readByte
  split
  case h_1 c heq =>
    exact absurd (isDigit_of_mem_toDigits (heq ▸ by simp : '\'' ∈ Nat.toDigits 10 b.toNat)) (by decide)
  case h_2 => simp [readNumber_toDigits, b.isLt]

theorem readFormatData_toDigits (d : BitVec 5) : readFormatData (Nat.toDigits 10 d.toNat) = some d := by
  simp [readFormatData, readNumber_toDigits, d.isLt]

theorem isPlain_of_mem_mnemonicOf (i : Instr) : ∀ c ∈ (mnemonicOf i).toList, IsPlain c := by
  cases i <;> simp [mnemonicOf, IsPlain]

/-- A mnemonic with a decimal operand is read as its two parts. -/
theorem assemble_decimal (i : Instr) (n : Nat) :
    assemble ((mnemonicOf i).toList ++ ' ' :: Nat.toDigits 10 n) =
      assembleOperand (mnemonicOf i) (Nat.toDigits 10 n) := by
  rw [assemble_two_words (isPlain_of_mem_mnemonicOf i)
    (fun _ hc => isPlain_of_isDigit (isDigit_of_mem_toDigits hc)) Nat.toDigits_ne_nil,
    String.ofList_toList]

end Sys2Proof.Machine

namespace Sys2Proof

open Sys2Proof.Machine

/-- Settles O13: a command without operand is its mnemonic; a decimal operand is read back as the number it
was made of, which fits its field. -/
theorem assemblerReadsWhatItSpells : Obligations.AssemblerReadsWhatItSpells := by
  intro i
  cases i with
  | rsPush b =>
    exact (assemble_decimal (.rsPush b) _).trans
      (congrArg (Option.map Instr.rsPush) (readByte_toDigits b))
  | bchEnc d =>
    exact (assemble_decimal (.bchEnc d) _).trans
      (congrArg (Option.map Instr.bchEnc) (readFormatData_toDigits d))
  | crcByte b =>
    exact (assemble_decimal (.crcByte b) _).trans
      (congrArg (Option.map Instr.crcByte) (readByte_toDigits b))
  | adlByte b =>
    exact (assemble_decimal (.adlByte b) _).trans
      (congrArg (Option.map Instr.adlByte) (readByte_toDigits b))
  | sysNop | sysReset | sysStat | rsInit | rsPop | bchRd | crcInit | crcRd | adlInit | adlRd => decide

end Sys2Proof
end
